-- ==== Sys2Proof/Word.lean ====
section
/-! DEFINITION. The two word types of the machine: the byte every bus transfer moves and the 16-bit CPU address
(00_scope.md R9). -/

namespace Sys2Proof

/-- A data byte: A, X, Y, S, P and every bus transfer (R9). -/
abbrev Byte := BitVec 8

/-- A CPU-bus address, and the width of PC (R9). -/
abbrev Addr := BitVec 16

end Sys2Proof
end

