-- ==== Sys2Proof/Machine/Bits.lean ====
section
/-! DEFINITION. Byte order and extension helpers of the notation R11: `a:b`, `zext16`, `sext16`, `s8`, and the
split of a 16-bit value into its two bytes. -/

namespace Sys2Proof

/-- `hi:lo`, the 16-bit value whose high byte is the left operand (R11). -/
def pair (hi lo : Byte) : Addr := hi ++ lo

/-- Bits 7:0 of a 16-bit value. -/
def lowByte (a : Addr) : Byte := a.extractLsb' 0 8

/-- Bits 15:8 of a 16-bit value: its page (R18). -/
def highByte (a : Addr) : Byte := a.extractLsb' 8 8

/-- `zext16` of R11. -/
def zext16 (b : Byte) : Addr := b.setWidth 16

/-- `sext16` of R11: bit 7 is the sign. -/
def sext16 (b : Byte) : Addr := b.signExtend 16

/-- One bit as a byte, 0 or 1. -/
def bitByte (b : Bool) : Byte := if b then 1 else 0

/-- Bit `k` of a byte. -/
def bitOf (v : Byte) (k : Nat) : Bool := v.getLsbD k

/-- Two addresses lie in different pages (R18). -/
def pagesDiffer (a b : Addr) : Bool := highByte a != highByte b

end Sys2Proof
end

