-- ==== Sys2Proof/Config.lean ====
section
/-! DEFINITION. What the implementation fixes (R9) and the values the spec leaves open (R10): the open-bus draw and
the audio mixer have no body, so nothing can be proved about which value they take. -/

namespace Sys2Proof

/-- The five channel levels one APU step emits: four 4-bit levels and the 7-bit DMC level (R219). -/
structure Levels where
  pulse1   : BitVec 4
  pulse2   : BitVec 4
  triangle : BitVec 4
  noise    : BitVec 4
  dmc      : BitVec 7
  deriving DecidableEq, Repr, Inhabited

/-- What the audio sink accepts: "a sample buffer plus sample count and a loop flag" (R219). The sample type is a
DESIGN CHOICE (log 8); nothing in the core reads it. -/
structure SampleBuffer where
  samples : List Int
  count   : Nat
  loop    : Bool
  deriving DecidableEq, Repr, Inhabited

/-- What port 2 holds (R225). -/
inductive Port2Device where
  | standard
  | lightGun
  deriving DecidableEq, Repr

namespace Config

/-- `draw openBus` (R43, R14): the n-th read that no device drives returns this free value (log 2). -/
opaque openBus : Nat → Byte

/-- `audioMix` (R219, D42): the host's mixing of the level sequence, any triangle cross-fade (R213) included. No core
state depends on it (log 8). -/
opaque audioMix : List Levels → SampleBuffer

/-- `DMC_STALL` (R9, R217). -/
def dmcStall : Nat := 4

/-- The CPU clock in Hz (R3). -/
def cpuClockHz : Nat := 1789773

/-- PPU dots per scanline and scanlines per frame (R9). -/
def dotsPerLine : Nat := 341
def linesPerFrame : Nat := 262

/-- Sizes of the memories in bytes (R9). -/
def ramSize : Nat := 0x800
def oamSize : Nat := 256
def paletteSize : Nat := 32
def prgRamSize : Nat := 0x2000
def chrRamSize : Nat := 0x2000

end Config

end Sys2Proof
end

