-- ==== Sys2Proof/Machine/Mem.lean ====
section
/-! DEFINITION. One memory: a list of (index, byte) cells in one canonical form, indices strictly rising and no cell
holding what an unlisted index reads as. Every memory of the system (RAM, VRAM, OAM, palette, cartridge memories) is one. -/

namespace Sys2Proof.Machine

/-- The cells of one memory, keyed by its own byte index. -/
abbrev Memory := List Host.Cell

/-- What an unlisted index reads as. The spec makes power-on contents a parameter (R232, D17); a memory with nothing
listed is the all-zero parameter. DESIGN CHOICE, log 3. -/
def Memory.unlisted : Byte := 0x00

/-- The byte at index `k`. -/
def Memory.read : Memory → Nat → Byte
  | [], _ => Memory.unlisted
  | (j, b) :: rest, k => if j = k then b else if k < j then Memory.unlisted else Memory.read rest k

/-- Keeps the cell only if it differs from an unlisted one. -/
def Memory.cons (k : Nat) (v : Byte) (m : Memory) : Memory :=
  if v = Memory.unlisted then m else (k, v) :: m

/-- The memory with byte `v` at index `k`, in canonical form again. -/
def Memory.write : Memory → Nat → Byte → Memory
  | [], k, v => Memory.cons k v []
  | (j, b) :: rest, k, v =>
    if j = k then Memory.cons k v rest
    else if k < j then Memory.cons k v ((j, b) :: rest)
    else (j, b) :: Memory.write rest k v

/-- Canonical form above a floor: every index is at least `lo` and below `size`, indices rise strictly, no unlisted value. -/
def Memory.wfFrom (size : Nat) : Nat → Memory → Bool
  | _, [] => true
  | lo, (j, b) :: rest => decide (lo ≤ j) && decide (j < size) && (b != Memory.unlisted) && Memory.wfFrom size (j + 1) rest

/-- The canonical form of a memory of `size` bytes. -/
def Memory.wf (size : Nat) (m : Memory) : Bool := Memory.wfFrom size 0 m

/-- The cells of a byte string placed from index `k` on. -/
def Memory.cellsFrom : Nat → List Byte → Memory
  | _, [] => []
  | k, b :: rest => Memory.cons k b (Memory.cellsFrom (k + 1) rest)

/-- A memory of `size` bytes whose contents are the given bytes (R47 "verbatim", R232): bytes past `size` do not exist,
missing ones read as unlisted. -/
def Memory.ofBytes (size : Nat) (bytes : List Byte) : Memory := Memory.cellsFrom 0 (bytes.take size)

end Sys2Proof.Machine
end

