-- ==== Sys2Proof/Machine/Cart.lean ====
section
/-! DEFINITION. The cartridge image (20_memory.md R45–R48): the iNES header, the loader with its malformed-ROM
conditions, and mapper 0's immutable part with its two address decodes and the mirroring function (R49–R54). -/

namespace Sys2Proof.Machine

/-- How the mapper maps nametable addresses (R54). Mapper 0 never selects single-screen; the mode exists for the
interface contract only. -/
inductive Mirroring where
  | horizontal
  | vertical
  | singleScreen (bank : Fin 2)
  | fourScreen
  deriving DecidableEq, Repr

/-- The loaded cartridge: header sizes, mirroring mode, PRG and CHR ROM, fixed for the process lifetime (R45, R47). -/
structure Cart where
  prgUnits  : Nat
  chrUnits  : Nat
  mirroring : Mirroring
  prg       : Memory
  chr       : Memory
  deriving DecidableEq, Repr

/-- The five malformed-ROM conditions (R48), numbered there. -/
inductive MalformedRom where
  | shortHeader
  | truncatedData
  | unsupportedMapper (mapper : Byte)
  | badMagic
  | noPrg
  deriving DecidableEq, Repr

/-- Byte `k` of the image's header (R46). -/
def headerByte (image : List Byte) (k : Nat) : Byte := image.getD k 0

/-- `prgUnits`: PRG ROM size in 16 KB units (R46). -/
def headerPrgUnits (image : List Byte) : Nat := (headerByte image 4).toNat

/-- `chrUnits`: CHR ROM size in 8 KB units (R46). -/
def headerChrUnits (image : List Byte) : Nat := (headerByte image 5).toNat

/-- `mapper = (byte7 & 0xF0) | (byte6 >> 4)` (R46). -/
def headerMapper (image : List Byte) : Byte := (headerByte image 7 &&& 0xF0) ||| (headerByte image 6 >>> 4)

/-- Byte 6 bit 2: a 512-byte trainer is present and skipped (R45, R46). -/
def headerHasTrainer (image : List Byte) : Bool := bitOf (headerByte image 6) 2

/-- Bytes 0–3 are "NES" and 0x1A (R46). -/
def headerMagicOk (image : List Byte) : Bool := image.take 4 == [0x4E, 0x45, 0x53, 0x1A]

/-- Four-screen if byte 6 bit 3, otherwise vertical if bit 0, otherwise horizontal (R54). -/
def headerMirroring (image : List Byte) : Mirroring :=
  if bitOf (headerByte image 6) 3 then .fourScreen
  else if bitOf (headerByte image 6) 0 then .vertical
  else .horizontal

/-- `prgSize = 16384 × prgUnits` (R46). -/
def prgBytes (units : Nat) : Nat := 16384 * units

/-- `chrSize = 8192 × chrUnits` (R46). -/
def chrBytes (units : Nat) : Nat := 8192 * units

/-- Where PRG ROM begins in the image (R47). -/
def prgOffset (image : List Byte) : Nat := 16 + (if headerHasTrainer image then 512 else 0)

/-- The first condition of R48 that holds, in its order; `none` when construction succeeds. -/
def malformed (image : List Byte) : Option MalformedRom :=
  if image.length < 16 then some .shortHeader
  else if image.length < prgOffset image + prgBytes (headerPrgUnits image) + chrBytes (headerChrUnits image) then
    some .truncatedData
  else if headerMapper image ≠ 0 then some (.unsupportedMapper (headerMapper image))
  else if headerMagicOk image = false then some .badMagic
  else if headerPrgUnits image = 0 then some .noPrg
  else none

/-- The loader (R47, R48): PRG and CHR ROM verbatim, or the malformed-ROM condition and no cartridge. -/
def loadCart (image : List Byte) : Except MalformedRom Cart :=
  match malformed image with
  | some e => .error e
  | none =>
    let p := headerPrgUnits image
    let c := headerChrUnits image
    .ok { prgUnits := p
          chrUnits := c
          mirroring := headerMirroring image
          prg := Memory.ofBytes (prgBytes p) (image.drop (prgOffset image))
          chr := Memory.ofBytes (chrBytes c) (image.drop (prgOffset image + prgBytes p)) }

/-- A cartridge with one empty PRG bank, CHR RAM and horizontal mirroring: what State.reset holds in place of the
parameter `cart`. DESIGN CHOICE, log 4. -/
def Cart.blank : Cart :=
  { prgUnits := 1, chrUnits := 0, mirroring := .horizontal, prg := [], chr := [] }

/-- Index of a CPU address in the PRG ROM: `(a - 0x8000) mod prgSize` (R50). -/
def Cart.prgIndex (c : Cart) (a : Addr) : Nat := (a.toNat - 0x8000) % prgBytes c.prgUnits

/-- Mapper 0's read of PRG ROM at a ≥ 0x8000 (R50). -/
def Cart.readPrg (c : Cart) (a : Addr) : Byte := Memory.read c.prg (c.prgIndex a)

/-- `NtIndex(a)` for a nametable address 0x2000 ≤ a ≤ 0x2FFF (R54). -/
def ntIndex (mode : Mirroring) (a : Nat) : Nat :=
  let o := a - 0x2000
  let t := o / 0x400
  let w := o % 0x400
  match mode with
  | .horizontal => (t / 2) * 0x400 + w
  | .vertical => (t % 2) * 0x400 + w
  | .singleScreen k => k.val * 0x400 + w
  | .fourScreen => o

/-- Nametable RAM size: 4 KB with four-screen, else 2 KB (R54). -/
def vramSize (mode : Mirroring) : Nat :=
  match mode with
  | .fourScreen => 0x1000
  | _ => 0x800

/-- A cartridge's own form: at least one PRG bank, and both ROM images canonical and inside their sizes. -/
def Cart.wf (c : Cart) : Bool :=
  decide (0 < c.prgUnits) && Memory.wf (prgBytes c.prgUnits) c.prg && Memory.wf (chrBytes c.chrUnits) c.chr

end Sys2Proof.Machine
end

