-- ==== Sys2Proof/Syntax.lean ====
section
/-! DEFINITION. The instruction syntax: one constructor per row of the opcode table (30_encoding.md R88), named by
mnemonic and addressing mode. An operand byte is `b` (or `off`, a branch displacement), a 16-bit operand is `a`. -/

namespace Sys2Proof

/-- The 151 documented instructions (R87, R89). -/
inductive Instr where
  -- 40_load_store.md
  | ldaIndX (b : Byte)
  | ldaZp (b : Byte)
  | ldaImm (b : Byte)
  | ldaAbs (a : Addr)
  | ldaIndY (b : Byte)
  | ldaZpX (b : Byte)
  | ldaAbsY (a : Addr)
  | ldaAbsX (a : Addr)
  | ldxImm (b : Byte)
  | ldxZp (b : Byte)
  | ldxAbs (a : Addr)
  | ldxZpY (b : Byte)
  | ldxAbsY (a : Addr)
  | ldyImm (b : Byte)
  | ldyZp (b : Byte)
  | ldyAbs (a : Addr)
  | ldyZpX (b : Byte)
  | ldyAbsX (a : Addr)
  | staIndX (b : Byte)
  | staZp (b : Byte)
  | staAbs (a : Addr)
  | staIndY (b : Byte)
  | staZpX (b : Byte)
  | staAbsY (a : Addr)
  | staAbsX (a : Addr)
  | stxZp (b : Byte)
  | stxAbs (a : Addr)
  | stxZpY (b : Byte)
  | styZp (b : Byte)
  | styAbs (a : Addr)
  | styZpX (b : Byte)
  -- 41_transfer_stack.md
  | tax
  | tay
  | txa
  | tya
  | tsx
  | txs
  | pha
  | php
  | pla
  | plp
  -- 42_arithmetic_logic.md
  | adcIndX (b : Byte)
  | adcZp (b : Byte)
  | adcImm (b : Byte)
  | adcAbs (a : Addr)
  | adcIndY (b : Byte)
  | adcZpX (b : Byte)
  | adcAbsY (a : Addr)
  | adcAbsX (a : Addr)
  | sbcIndX (b : Byte)
  | sbcZp (b : Byte)
  | sbcImm (b : Byte)
  | sbcAbs (a : Addr)
  | sbcIndY (b : Byte)
  | sbcZpX (b : Byte)
  | sbcAbsY (a : Addr)
  | sbcAbsX (a : Addr)
  | andIndX (b : Byte)
  | andZp (b : Byte)
  | andImm (b : Byte)
  | andAbs (a : Addr)
  | andIndY (b : Byte)
  | andZpX (b : Byte)
  | andAbsY (a : Addr)
  | andAbsX (a : Addr)
  | oraIndX (b : Byte)
  | oraZp (b : Byte)
  | oraImm (b : Byte)
  | oraAbs (a : Addr)
  | oraIndY (b : Byte)
  | oraZpX (b : Byte)
  | oraAbsY (a : Addr)
  | oraAbsX (a : Addr)
  | eorIndX (b : Byte)
  | eorZp (b : Byte)
  | eorImm (b : Byte)
  | eorAbs (a : Addr)
  | eorIndY (b : Byte)
  | eorZpX (b : Byte)
  | eorAbsY (a : Addr)
  | eorAbsX (a : Addr)
  | bitZp (b : Byte)
  | bitAbs (a : Addr)
  | cmpIndX (b : Byte)
  | cmpZp (b : Byte)
  | cmpImm (b : Byte)
  | cmpAbs (a : Addr)
  | cmpIndY (b : Byte)
  | cmpZpX (b : Byte)
  | cmpAbsY (a : Addr)
  | cmpAbsX (a : Addr)
  | cpxImm (b : Byte)
  | cpxZp (b : Byte)
  | cpxAbs (a : Addr)
  | cpyImm (b : Byte)
  | cpyZp (b : Byte)
  | cpyAbs (a : Addr)
  -- 43_inc_dec.md
  | incZp (b : Byte)
  | incAbs (a : Addr)
  | incZpX (b : Byte)
  | incAbsX (a : Addr)
  | decZp (b : Byte)
  | decAbs (a : Addr)
  | decZpX (b : Byte)
  | decAbsX (a : Addr)
  | inx
  | iny
  | dex
  | dey
  -- 44_shift_rotate.md
  | aslZp (b : Byte)
  | aslAcc
  | aslAbs (a : Addr)
  | aslZpX (b : Byte)
  | aslAbsX (a : Addr)
  | lsrZp (b : Byte)
  | lsrAcc
  | lsrAbs (a : Addr)
  | lsrZpX (b : Byte)
  | lsrAbsX (a : Addr)
  | rolZp (b : Byte)
  | rolAcc
  | rolAbs (a : Addr)
  | rolZpX (b : Byte)
  | rolAbsX (a : Addr)
  | rorZp (b : Byte)
  | rorAcc
  | rorAbs (a : Addr)
  | rorZpX (b : Byte)
  | rorAbsX (a : Addr)
  -- 45_control_transfer.md
  | jmpAbs (a : Addr)
  | jmpInd (a : Addr)
  | jsr (a : Addr)
  | rts
  | bcc (off : Byte)
  | bcs (off : Byte)
  | beq (off : Byte)
  | bne (off : Byte)
  | bmi (off : Byte)
  | bpl (off : Byte)
  | bvc (off : Byte)
  | bvs (off : Byte)
  -- 46_system_flags.md
  | brk
  | rti
  | nop
  | clc
  | sec
  | cli
  | sei
  | cld
  | sed
  | clv
  deriving DecidableEq, Repr

end Sys2Proof
end

