-- ==== Sys2Proof/WellFormed.lean ====
section
/-! DEFINITION. The checks on raw input: which byte strings are one instruction (30_encoding.md R67, R68, R90) and which
images are a cartridge (20_memory.md R48). A term of Instr needs no check of its own: its fields have exactly the
widths of the encoding. -/

namespace Sys2Proof

/-- The 105 invalid opcode bytes, as R90 lists them. -/
def invalidOpcodes : List Nat :=
  [0x02, 0x03, 0x04, 0x07, 0x0B, 0x0C, 0x0F, 0x12, 0x13, 0x14, 0x17, 0x1A, 0x1B, 0x1C, 0x1F] ++
  [0x22, 0x23, 0x27, 0x2B, 0x2F, 0x32, 0x33, 0x34, 0x37, 0x3A, 0x3B, 0x3C, 0x3F, 0x42, 0x43] ++
  [0x44, 0x47, 0x4B, 0x4F, 0x52, 0x53, 0x54, 0x57, 0x5A, 0x5B, 0x5C, 0x5F, 0x62, 0x63, 0x64] ++
  [0x67, 0x6B, 0x6F, 0x72, 0x73, 0x74, 0x77, 0x7A, 0x7B, 0x7C, 0x7F, 0x80, 0x82, 0x83, 0x87] ++
  [0x89, 0x8B, 0x8F, 0x92, 0x93, 0x97, 0x9B, 0x9C, 0x9E, 0x9F, 0xA3, 0xA7, 0xAB, 0xAF, 0xB2] ++
  [0xB3, 0xB7, 0xBB, 0xBF, 0xC2, 0xC3, 0xC7, 0xCB, 0xCF, 0xD2, 0xD3, 0xD4, 0xD7, 0xDA, 0xDB] ++
  [0xDC, 0xDF, 0xE2, 0xE3, 0xE7, 0xEB, 0xEF, 0xF2, 0xF3, 0xF4, 0xF7, 0xFA, 0xFB, 0xFC, 0xFF]

/-- The opcode byte has a table entry (R89, R90). -/
def opcodePopulated (op : Byte) : Bool := !invalidOpcodes.contains op.toNat

/-- The instruction length a populated opcode byte selects: the bytes column of R88, by its low nibble and, where that
does not decide, its high nibble. -/
def opcodeLength (op : Byte) : Nat :=
  let hi := op.toNat / 16
  match op.toNat % 16 with
  | 0x0 => if hi = 2 then 3 else if hi = 0 || hi = 4 || hi = 6 then 1 else 2
  | 0x8 => 1
  | 0xA => 1
  | 0x9 => if hi % 2 = 0 then 2 else 3
  | 0xC => 3
  | 0xD => 3
  | 0xE => 3
  | _ => 2

/-- The bytes are exactly one instruction: a populated opcode and as many operand bytes as its mode consumes. -/
def wellFormedBytes : List Byte → Bool
  | [] => false
  | op :: operands => opcodePopulated op && decide (1 + operands.length = opcodeLength op)

/-- Every instruction term is well formed: 8-bit and 16-bit operands take every value (R67, R91). -/
def Instr.wellFormed (_ : Instr) : Bool := true

/-- The image passes every condition of R48, so that a system can be constructed from it. -/
def imageWellFormed (image : List Byte) : Bool := (Machine.malformed image).isNone

end Sys2Proof
end

