-- ==== Sys2Proof/Decode.lean ====
section
/-! DEFINITION. The opcode table (30_encoding.md R87, R88) read in both directions: `decode` from bytes, total and
refusing every invalid opcode (R90) and every missing operand byte, and `encode` to bytes. -/

namespace Sys2Proof

/-- The 56 mnemonics (R89). -/
inductive Mnemonic where
  | adc | and | asl | bcc | bcs | beq | bit | bmi | bne | bpl | brk | bvc | bvs | clc
  | cld | cli | clv | cmp | cpx | cpy | dec | dex | dey | eor | inc | inx | iny | jmp
  | jsr | lda | ldx | ldy | lsr | nop | ora | pha | php | pla | plp | rol | ror | rti
  | rts | sbc | sec | sed | sei | sta | stx | sty | tax | tay | tsx | txa | txs | tya
  deriving DecidableEq, Repr

/-- The 14 addressing modes with their operand (R71–R85). -/
inductive Operand where
  | implied
  | acc
  | imm  (b : Byte)
  | zp   (b : Byte)
  | zpX  (b : Byte)
  | zpY  (b : Byte)
  | abs  (a : Addr)
  | absX (a : Addr)
  | absY (a : Addr)
  | indX (b : Byte)
  | indY (b : Byte)
  | rel  (off : Byte)
  | ind  (a : Addr)
  | jump (a : Addr)
  deriving DecidableEq, Repr

/-- One row of the opcode table R88: opcode, mnemonic, mode with its operand, base cycle count. -/
structure Row where
  opcode   : Byte
  mnemonic : Mnemonic
  operand  : Operand
  base     : Nat
  deriving DecidableEq, Repr

/-- The row of R88 an instruction stands for. -/
def Instr.row : Instr → Row
  | .brk       => ⟨0x00, .brk, .implied, 7⟩
  | .oraIndX b => ⟨0x01, .ora, .indX b, 6⟩
  | .oraZp b   => ⟨0x05, .ora, .zp b, 3⟩
  | .aslZp b   => ⟨0x06, .asl, .zp b, 5⟩
  | .php       => ⟨0x08, .php, .implied, 3⟩
  | .oraImm b  => ⟨0x09, .ora, .imm b, 2⟩
  | .aslAcc    => ⟨0x0A, .asl, .acc, 2⟩
  | .oraAbs a  => ⟨0x0D, .ora, .abs a, 4⟩
  | .aslAbs a  => ⟨0x0E, .asl, .abs a, 6⟩
  | .bpl off   => ⟨0x10, .bpl, .rel off, 2⟩
  | .oraIndY b => ⟨0x11, .ora, .indY b, 5⟩
  | .oraZpX b  => ⟨0x15, .ora, .zpX b, 4⟩
  | .aslZpX b  => ⟨0x16, .asl, .zpX b, 6⟩
  | .clc       => ⟨0x18, .clc, .implied, 2⟩
  | .oraAbsY a => ⟨0x19, .ora, .absY a, 4⟩
  | .oraAbsX a => ⟨0x1D, .ora, .absX a, 4⟩
  | .aslAbsX a => ⟨0x1E, .asl, .absX a, 7⟩
  | .jsr a     => ⟨0x20, .jsr, .jump a, 6⟩
  | .andIndX b => ⟨0x21, .and, .indX b, 6⟩
  | .bitZp b   => ⟨0x24, .bit, .zp b, 3⟩
  | .andZp b   => ⟨0x25, .and, .zp b, 3⟩
  | .rolZp b   => ⟨0x26, .rol, .zp b, 5⟩
  | .plp       => ⟨0x28, .plp, .implied, 4⟩
  | .andImm b  => ⟨0x29, .and, .imm b, 2⟩
  | .rolAcc    => ⟨0x2A, .rol, .acc, 2⟩
  | .bitAbs a  => ⟨0x2C, .bit, .abs a, 4⟩
  | .andAbs a  => ⟨0x2D, .and, .abs a, 4⟩
  | .rolAbs a  => ⟨0x2E, .rol, .abs a, 6⟩
  | .bmi off   => ⟨0x30, .bmi, .rel off, 2⟩
  | .andIndY b => ⟨0x31, .and, .indY b, 5⟩
  | .andZpX b  => ⟨0x35, .and, .zpX b, 4⟩
  | .rolZpX b  => ⟨0x36, .rol, .zpX b, 6⟩
  | .sec       => ⟨0x38, .sec, .implied, 2⟩
  | .andAbsY a => ⟨0x39, .and, .absY a, 4⟩
  | .andAbsX a => ⟨0x3D, .and, .absX a, 4⟩
  | .rolAbsX a => ⟨0x3E, .rol, .absX a, 7⟩
  | .rti       => ⟨0x40, .rti, .implied, 6⟩
  | .eorIndX b => ⟨0x41, .eor, .indX b, 6⟩
  | .eorZp b   => ⟨0x45, .eor, .zp b, 3⟩
  | .lsrZp b   => ⟨0x46, .lsr, .zp b, 5⟩
  | .pha       => ⟨0x48, .pha, .implied, 3⟩
  | .eorImm b  => ⟨0x49, .eor, .imm b, 2⟩
  | .lsrAcc    => ⟨0x4A, .lsr, .acc, 2⟩
  | .jmpAbs a  => ⟨0x4C, .jmp, .jump a, 3⟩
  | .eorAbs a  => ⟨0x4D, .eor, .abs a, 4⟩
  | .lsrAbs a  => ⟨0x4E, .lsr, .abs a, 6⟩
  | .bvc off   => ⟨0x50, .bvc, .rel off, 2⟩
  | .eorIndY b => ⟨0x51, .eor, .indY b, 5⟩
  | .eorZpX b  => ⟨0x55, .eor, .zpX b, 4⟩
  | .lsrZpX b  => ⟨0x56, .lsr, .zpX b, 6⟩
  | .cli       => ⟨0x58, .cli, .implied, 2⟩
  | .eorAbsY a => ⟨0x59, .eor, .absY a, 4⟩
  | .eorAbsX a => ⟨0x5D, .eor, .absX a, 4⟩
  | .lsrAbsX a => ⟨0x5E, .lsr, .absX a, 7⟩
  | .rts       => ⟨0x60, .rts, .implied, 6⟩
  | .adcIndX b => ⟨0x61, .adc, .indX b, 6⟩
  | .adcZp b   => ⟨0x65, .adc, .zp b, 3⟩
  | .rorZp b   => ⟨0x66, .ror, .zp b, 5⟩
  | .pla       => ⟨0x68, .pla, .implied, 4⟩
  | .adcImm b  => ⟨0x69, .adc, .imm b, 2⟩
  | .rorAcc    => ⟨0x6A, .ror, .acc, 2⟩
  | .jmpInd a  => ⟨0x6C, .jmp, .ind a, 5⟩
  | .adcAbs a  => ⟨0x6D, .adc, .abs a, 4⟩
  | .rorAbs a  => ⟨0x6E, .ror, .abs a, 6⟩
  | .bvs off   => ⟨0x70, .bvs, .rel off, 2⟩
  | .adcIndY b => ⟨0x71, .adc, .indY b, 5⟩
  | .adcZpX b  => ⟨0x75, .adc, .zpX b, 4⟩
  | .rorZpX b  => ⟨0x76, .ror, .zpX b, 6⟩
  | .sei       => ⟨0x78, .sei, .implied, 2⟩
  | .adcAbsY a => ⟨0x79, .adc, .absY a, 4⟩
  | .adcAbsX a => ⟨0x7D, .adc, .absX a, 4⟩
  | .rorAbsX a => ⟨0x7E, .ror, .absX a, 7⟩
  | .staIndX b => ⟨0x81, .sta, .indX b, 6⟩
  | .styZp b   => ⟨0x84, .sty, .zp b, 3⟩
  | .staZp b   => ⟨0x85, .sta, .zp b, 3⟩
  | .stxZp b   => ⟨0x86, .stx, .zp b, 3⟩
  | .dey       => ⟨0x88, .dey, .implied, 2⟩
  | .txa       => ⟨0x8A, .txa, .implied, 2⟩
  | .styAbs a  => ⟨0x8C, .sty, .abs a, 4⟩
  | .staAbs a  => ⟨0x8D, .sta, .abs a, 4⟩
  | .stxAbs a  => ⟨0x8E, .stx, .abs a, 4⟩
  | .bcc off   => ⟨0x90, .bcc, .rel off, 2⟩
  | .staIndY b => ⟨0x91, .sta, .indY b, 6⟩
  | .styZpX b  => ⟨0x94, .sty, .zpX b, 4⟩
  | .staZpX b  => ⟨0x95, .sta, .zpX b, 4⟩
  | .stxZpY b  => ⟨0x96, .stx, .zpY b, 4⟩
  | .tya       => ⟨0x98, .tya, .implied, 2⟩
  | .staAbsY a => ⟨0x99, .sta, .absY a, 5⟩
  | .txs       => ⟨0x9A, .txs, .implied, 2⟩
  | .staAbsX a => ⟨0x9D, .sta, .absX a, 5⟩
  | .ldyImm b  => ⟨0xA0, .ldy, .imm b, 2⟩
  | .ldaIndX b => ⟨0xA1, .lda, .indX b, 6⟩
  | .ldxImm b  => ⟨0xA2, .ldx, .imm b, 2⟩
  | .ldyZp b   => ⟨0xA4, .ldy, .zp b, 3⟩
  | .ldaZp b   => ⟨0xA5, .lda, .zp b, 3⟩
  | .ldxZp b   => ⟨0xA6, .ldx, .zp b, 3⟩
  | .tay       => ⟨0xA8, .tay, .implied, 2⟩
  | .ldaImm b  => ⟨0xA9, .lda, .imm b, 2⟩
  | .tax       => ⟨0xAA, .tax, .implied, 2⟩
  | .ldyAbs a  => ⟨0xAC, .ldy, .abs a, 4⟩
  | .ldaAbs a  => ⟨0xAD, .lda, .abs a, 4⟩
  | .ldxAbs a  => ⟨0xAE, .ldx, .abs a, 4⟩
  | .bcs off   => ⟨0xB0, .bcs, .rel off, 2⟩
  | .ldaIndY b => ⟨0xB1, .lda, .indY b, 5⟩
  | .ldyZpX b  => ⟨0xB4, .ldy, .zpX b, 4⟩
  | .ldaZpX b  => ⟨0xB5, .lda, .zpX b, 4⟩
  | .ldxZpY b  => ⟨0xB6, .ldx, .zpY b, 4⟩
  | .clv       => ⟨0xB8, .clv, .implied, 2⟩
  | .ldaAbsY a => ⟨0xB9, .lda, .absY a, 4⟩
  | .tsx       => ⟨0xBA, .tsx, .implied, 2⟩
  | .ldyAbsX a => ⟨0xBC, .ldy, .absX a, 4⟩
  | .ldaAbsX a => ⟨0xBD, .lda, .absX a, 4⟩
  | .ldxAbsY a => ⟨0xBE, .ldx, .absY a, 4⟩
  | .cpyImm b  => ⟨0xC0, .cpy, .imm b, 2⟩
  | .cmpIndX b => ⟨0xC1, .cmp, .indX b, 6⟩
  | .cpyZp b   => ⟨0xC4, .cpy, .zp b, 3⟩
  | .cmpZp b   => ⟨0xC5, .cmp, .zp b, 3⟩
  | .decZp b   => ⟨0xC6, .dec, .zp b, 5⟩
  | .iny       => ⟨0xC8, .iny, .implied, 2⟩
  | .cmpImm b  => ⟨0xC9, .cmp, .imm b, 2⟩
  | .dex       => ⟨0xCA, .dex, .implied, 2⟩
  | .cpyAbs a  => ⟨0xCC, .cpy, .abs a, 4⟩
  | .cmpAbs a  => ⟨0xCD, .cmp, .abs a, 4⟩
  | .decAbs a  => ⟨0xCE, .dec, .abs a, 6⟩
  | .bne off   => ⟨0xD0, .bne, .rel off, 2⟩
  | .cmpIndY b => ⟨0xD1, .cmp, .indY b, 5⟩
  | .cmpZpX b  => ⟨0xD5, .cmp, .zpX b, 4⟩
  | .decZpX b  => ⟨0xD6, .dec, .zpX b, 6⟩
  | .cld       => ⟨0xD8, .cld, .implied, 2⟩
  | .cmpAbsY a => ⟨0xD9, .cmp, .absY a, 4⟩
  | .cmpAbsX a => ⟨0xDD, .cmp, .absX a, 4⟩
  | .decAbsX a => ⟨0xDE, .dec, .absX a, 7⟩
  | .cpxImm b  => ⟨0xE0, .cpx, .imm b, 2⟩
  | .sbcIndX b => ⟨0xE1, .sbc, .indX b, 6⟩
  | .cpxZp b   => ⟨0xE4, .cpx, .zp b, 3⟩
  | .sbcZp b   => ⟨0xE5, .sbc, .zp b, 3⟩
  | .incZp b   => ⟨0xE6, .inc, .zp b, 5⟩
  | .inx       => ⟨0xE8, .inx, .implied, 2⟩
  | .sbcImm b  => ⟨0xE9, .sbc, .imm b, 2⟩
  | .nop       => ⟨0xEA, .nop, .implied, 2⟩
  | .cpxAbs a  => ⟨0xEC, .cpx, .abs a, 4⟩
  | .sbcAbs a  => ⟨0xED, .sbc, .abs a, 4⟩
  | .incAbs a  => ⟨0xEE, .inc, .abs a, 6⟩
  | .beq off   => ⟨0xF0, .beq, .rel off, 2⟩
  | .sbcIndY b => ⟨0xF1, .sbc, .indY b, 5⟩
  | .sbcZpX b  => ⟨0xF5, .sbc, .zpX b, 4⟩
  | .incZpX b  => ⟨0xF6, .inc, .zpX b, 6⟩
  | .sed       => ⟨0xF8, .sed, .implied, 2⟩
  | .sbcAbsY a => ⟨0xF9, .sbc, .absY a, 4⟩
  | .sbcAbsX a => ⟨0xFD, .sbc, .absX a, 4⟩
  | .incAbsX a => ⟨0xFE, .inc, .absX a, 7⟩

/-- The mnemonic column of R88. -/
def Instr.mnemonic (i : Instr) : Mnemonic := i.row.mnemonic

/-- The mode column of R88, with the operand bytes. -/
def Instr.operand (i : Instr) : Operand := i.row.operand

/-- The base cycle count of R88. -/
def Instr.baseCycles (i : Instr) : Nat := i.row.base

/-- The opcode byte of R88. -/
def Instr.opcode (i : Instr) : Byte := i.row.opcode

/-- The operand bytes after the opcode, low address byte first (R67). -/
def Operand.bytes : Operand → List Byte
  | .implied => []
  | .acc => []
  | .imm b => [b]
  | .zp b => [b]
  | .zpX b => [b]
  | .zpY b => [b]
  | .abs a => [lowByte a, highByte a]
  | .absX a => [lowByte a, highByte a]
  | .absY a => [lowByte a, highByte a]
  | .indX b => [b]
  | .indY b => [b]
  | .rel off => [off]
  | .ind a => [lowByte a, highByte a]
  | .jump a => [lowByte a, highByte a]

/-- How an opcode's operand bytes are fetched and what they make: none; the immediate byte, read at the address after
PC has moved past it (R74); one byte (R75–R77, R81–R83); two bytes, low first (R78–R80, R84, R85). -/
inductive OpForm where
  | none      (i : Instr)
  | immediate (mk : Byte → Instr)
  | byte      (mk : Byte → Instr)
  | word      (mk : Addr → Instr)

/-- The table entry of an opcode byte; `none` for the 105 invalid ones (R87, R90). -/
def opForm (op : Byte) : Option OpForm :=
  match op.toNat with
  | 0x00 => some (.none .brk)
  | 0x01 => some (.byte .oraIndX)
  | 0x05 => some (.byte .oraZp)
  | 0x06 => some (.byte .aslZp)
  | 0x08 => some (.none .php)
  | 0x09 => some (.immediate .oraImm)
  | 0x0A => some (.none .aslAcc)
  | 0x0D => some (.word .oraAbs)
  | 0x0E => some (.word .aslAbs)
  | 0x10 => some (.byte .bpl)
  | 0x11 => some (.byte .oraIndY)
  | 0x15 => some (.byte .oraZpX)
  | 0x16 => some (.byte .aslZpX)
  | 0x18 => some (.none .clc)
  | 0x19 => some (.word .oraAbsY)
  | 0x1D => some (.word .oraAbsX)
  | 0x1E => some (.word .aslAbsX)
  | 0x20 => some (.word .jsr)
  | 0x21 => some (.byte .andIndX)
  | 0x24 => some (.byte .bitZp)
  | 0x25 => some (.byte .andZp)
  | 0x26 => some (.byte .rolZp)
  | 0x28 => some (.none .plp)
  | 0x29 => some (.immediate .andImm)
  | 0x2A => some (.none .rolAcc)
  | 0x2C => some (.word .bitAbs)
  | 0x2D => some (.word .andAbs)
  | 0x2E => some (.word .rolAbs)
  | 0x30 => some (.byte .bmi)
  | 0x31 => some (.byte .andIndY)
  | 0x35 => some (.byte .andZpX)
  | 0x36 => some (.byte .rolZpX)
  | 0x38 => some (.none .sec)
  | 0x39 => some (.word .andAbsY)
  | 0x3D => some (.word .andAbsX)
  | 0x3E => some (.word .rolAbsX)
  | 0x40 => some (.none .rti)
  | 0x41 => some (.byte .eorIndX)
  | 0x45 => some (.byte .eorZp)
  | 0x46 => some (.byte .lsrZp)
  | 0x48 => some (.none .pha)
  | 0x49 => some (.immediate .eorImm)
  | 0x4A => some (.none .lsrAcc)
  | 0x4C => some (.word .jmpAbs)
  | 0x4D => some (.word .eorAbs)
  | 0x4E => some (.word .lsrAbs)
  | 0x50 => some (.byte .bvc)
  | 0x51 => some (.byte .eorIndY)
  | 0x55 => some (.byte .eorZpX)
  | 0x56 => some (.byte .lsrZpX)
  | 0x58 => some (.none .cli)
  | 0x59 => some (.word .eorAbsY)
  | 0x5D => some (.word .eorAbsX)
  | 0x5E => some (.word .lsrAbsX)
  | 0x60 => some (.none .rts)
  | 0x61 => some (.byte .adcIndX)
  | 0x65 => some (.byte .adcZp)
  | 0x66 => some (.byte .rorZp)
  | 0x68 => some (.none .pla)
  | 0x69 => some (.immediate .adcImm)
  | 0x6A => some (.none .rorAcc)
  | 0x6C => some (.word .jmpInd)
  | 0x6D => some (.word .adcAbs)
  | 0x6E => some (.word .rorAbs)
  | 0x70 => some (.byte .bvs)
  | 0x71 => some (.byte .adcIndY)
  | 0x75 => some (.byte .adcZpX)
  | 0x76 => some (.byte .rorZpX)
  | 0x78 => some (.none .sei)
  | 0x79 => some (.word .adcAbsY)
  | 0x7D => some (.word .adcAbsX)
  | 0x7E => some (.word .rorAbsX)
  | 0x81 => some (.byte .staIndX)
  | 0x84 => some (.byte .styZp)
  | 0x85 => some (.byte .staZp)
  | 0x86 => some (.byte .stxZp)
  | 0x88 => some (.none .dey)
  | 0x8A => some (.none .txa)
  | 0x8C => some (.word .styAbs)
  | 0x8D => some (.word .staAbs)
  | 0x8E => some (.word .stxAbs)
  | 0x90 => some (.byte .bcc)
  | 0x91 => some (.byte .staIndY)
  | 0x94 => some (.byte .styZpX)
  | 0x95 => some (.byte .staZpX)
  | 0x96 => some (.byte .stxZpY)
  | 0x98 => some (.none .tya)
  | 0x99 => some (.word .staAbsY)
  | 0x9A => some (.none .txs)
  | 0x9D => some (.word .staAbsX)
  | 0xA0 => some (.immediate .ldyImm)
  | 0xA1 => some (.byte .ldaIndX)
  | 0xA2 => some (.immediate .ldxImm)
  | 0xA4 => some (.byte .ldyZp)
  | 0xA5 => some (.byte .ldaZp)
  | 0xA6 => some (.byte .ldxZp)
  | 0xA8 => some (.none .tay)
  | 0xA9 => some (.immediate .ldaImm)
  | 0xAA => some (.none .tax)
  | 0xAC => some (.word .ldyAbs)
  | 0xAD => some (.word .ldaAbs)
  | 0xAE => some (.word .ldxAbs)
  | 0xB0 => some (.byte .bcs)
  | 0xB1 => some (.byte .ldaIndY)
  | 0xB4 => some (.byte .ldyZpX)
  | 0xB5 => some (.byte .ldaZpX)
  | 0xB6 => some (.byte .ldxZpY)
  | 0xB8 => some (.none .clv)
  | 0xB9 => some (.word .ldaAbsY)
  | 0xBA => some (.none .tsx)
  | 0xBC => some (.word .ldyAbsX)
  | 0xBD => some (.word .ldaAbsX)
  | 0xBE => some (.word .ldxAbsY)
  | 0xC0 => some (.immediate .cpyImm)
  | 0xC1 => some (.byte .cmpIndX)
  | 0xC4 => some (.byte .cpyZp)
  | 0xC5 => some (.byte .cmpZp)
  | 0xC6 => some (.byte .decZp)
  | 0xC8 => some (.none .iny)
  | 0xC9 => some (.immediate .cmpImm)
  | 0xCA => some (.none .dex)
  | 0xCC => some (.word .cpyAbs)
  | 0xCD => some (.word .cmpAbs)
  | 0xCE => some (.word .decAbs)
  | 0xD0 => some (.byte .bne)
  | 0xD1 => some (.byte .cmpIndY)
  | 0xD5 => some (.byte .cmpZpX)
  | 0xD6 => some (.byte .decZpX)
  | 0xD8 => some (.none .cld)
  | 0xD9 => some (.word .cmpAbsY)
  | 0xDD => some (.word .cmpAbsX)
  | 0xDE => some (.word .decAbsX)
  | 0xE0 => some (.immediate .cpxImm)
  | 0xE1 => some (.byte .sbcIndX)
  | 0xE4 => some (.byte .cpxZp)
  | 0xE5 => some (.byte .sbcZp)
  | 0xE6 => some (.byte .incZp)
  | 0xE8 => some (.none .inx)
  | 0xE9 => some (.immediate .sbcImm)
  | 0xEA => some (.none .nop)
  | 0xEC => some (.word .cpxAbs)
  | 0xED => some (.word .sbcAbs)
  | 0xEE => some (.word .incAbs)
  | 0xF0 => some (.byte .beq)
  | 0xF1 => some (.byte .sbcIndY)
  | 0xF5 => some (.byte .sbcZpX)
  | 0xF6 => some (.byte .incZpX)
  | 0xF8 => some (.none .sed)
  | 0xF9 => some (.word .sbcAbsY)
  | 0xFD => some (.word .sbcAbsX)
  | 0xFE => some (.word .incAbsX)
  | _ => none

/-- Reads one instruction from the front of a byte string and returns it with the rest. -/
def decode : List Byte → Option (Instr × List Byte)
  | [] => none
  | op :: rest =>
    match opForm op with
    | none => none
    | some (.none i) => some (i, rest)
    | some (.immediate mk) =>
      match rest with
      | b :: r => some (mk b, r)
      | [] => none
    | some (.byte mk) =>
      match rest with
      | b :: r => some (mk b, r)
      | [] => none
    | some (.word mk) =>
      match rest with
      | lo :: hi :: r => some (mk (pair hi lo), r)
      | _ => none

/-- The bytes of an instruction, at rising addresses (R67). -/
def encode (i : Instr) : List Byte := i.opcode :: i.operand.bytes

/-- The bytes column of R88. -/
def Instr.length (i : Instr) : Nat := (encode i).length

/-- The three bytes of an opcode-table word, the first byte in its low bits; bits from `nbits` on are 0. -/
def tableWordBytes (nbits w : Nat) : List Byte :=
  let v := w % 2 ^ nbits
  [BitVec.ofNat 8 v, BitVec.ofNat 8 (v / 256), BitVec.ofNat 8 (v / 65536)]

/-- The instruction the decoder reads from an opcode-table word. -/
def decodeTableWord (nbits w : Nat) : Option Instr :=
  match decode (tableWordBytes nbits w) with
  | some (i, _) => some i
  | none => none

end Sys2Proof
end

