-- ==== Sys2Proof/Machine/State.lean ====
section
/-! DEFINITION. The state of the whole system (10_state.md R34): CPU, memories, cartridge, PPU, APU, controller ports,
host inputs and outputs; power-on from the parameters of R232 and the state right after reset (70_reset_and_hazards.md
R233, R234). All of it is plain data. -/

namespace Sys2Proof.Machine

/-- The fatal errors of 60_exceptions.md R159. Safe: the machine stops where the console would go on (D22). -/
inductive Fault where
  /-- Raised by an opcode fetch of one of the 105 bytes of R90; holds the byte and its own address. Safe. -/
  | invalidOpcode (opcode : Byte) (pc : Addr)
  /-- Raised by any CPU-bus access at 0x4018–0x401F (R41): fetch, data, OAM-DMA read; holds the address. Safe. -/
  | invalidAddress (address : Addr)
  deriving DecidableEq, Repr

/-- Why the model could decline an instruction. -/
inductive Refusal where
  /-- An instruction without a meaning; no arm of exec answers this. Safe. -/
  | notModelled (mnemonic : String)
  deriving DecidableEq, Repr

/-- The CPU's registers and hidden state (R19–R32). -/
structure Cpu where
  a          : Byte
  x          : Byte
  y          : Byte
  /-- Low byte of the next free stack address (R23). -/
  s          : Byte
  /-- Status N V 1 B D I Z C (R24). -/
  p          : Byte
  pc         : Addr
  /-- CPU cycles still to elapse before the next instruction boundary (R32). -/
  stall      : Nat
  nmiPending : Bool
  irqPending : Bool
  /-- Ticks since power-on, read only for the OAM-DMA parity (R32). -/
  cycle      : Nat
  /-- The fault record of R160. -/
  fault      : Option Fault
  deriving DecidableEq, Repr

/-- The PPU (R175). `scanline` and `dot` are the spec's `s` and `d`. -/
structure Ppu where
  scanline : Nat
  dot      : Nat
  ctrl     : Byte
  mask     : Byte
  vbl      : Bool
  spr0     : Bool
  ovf      : Bool
  /-- The write toggle PPUSCROLL and PPUADDR share. -/
  w        : Bool
  scrollX  : Byte
  scrollY  : Byte
  vaddr    : BitVec 16
  rbuf     : Byte
  oamAddr  : Byte
  oam      : Memory
  palette  : Memory
  deriving DecidableEq, Repr

/-- The envelope unit of a pulse or noise channel, with the control byte's fields it reads (R197, R205). -/
structure Envelope where
  /-- Length-counter halt, also the envelope loop flag. -/
  lenHalt   : Bool
  constVol  : Bool
  volPeriod : BitVec 4
  start     : Bool
  div       : BitVec 4
  decay     : BitVec 4
  deriving DecidableEq, Repr

/-- A pulse channel (R197). -/
structure Pulse where
  duty        : BitVec 2
  env         : Envelope
  sweepEn     : Bool
  sweepPeriod : BitVec 3
  sweepNeg    : Bool
  sweepShift  : BitVec 3
  sweepDiv    : BitVec 3
  sweepReload : Bool
  timerPeriod : BitVec 11
  timer       : BitVec 11
  phase       : BitVec 3
  len         : BitVec 8
  deriving DecidableEq, Repr

/-- The triangle channel (R197). -/
structure Triangle where
  /-- Linear-counter control, also the length halt flag. -/
  linCtrl      : Bool
  linReloadVal : BitVec 7
  lin          : BitVec 7
  linReload    : Bool
  timerPeriod  : BitVec 11
  timer        : BitVec 11
  step         : BitVec 5
  len          : BitVec 8
  deriving DecidableEq, Repr

/-- The noise channel (R197). -/
structure Noise where
  env       : Envelope
  mode      : Bool
  periodIdx : BitVec 4
  timer     : BitVec 12
  len       : BitVec 8
  lfsr      : BitVec 15
  deriving DecidableEq, Repr

/-- The delta-modulation channel (R197). -/
structure Dmc where
  irqEn         : Bool
  loop          : Bool
  rateIdx       : BitVec 4
  timer         : BitVec 9
  out           : BitVec 7
  sampleAddrReg : Byte
  sampleLenReg  : Byte
  curAddr       : Addr
  bytesLeft     : BitVec 12
  buffer        : Byte
  bufferEmpty   : Bool
  shift         : Byte
  /-- Bits left in the shift register, 0–8. -/
  bitsLeft      : Nat
  silence       : Bool
  dmcIrq        : Bool
  deriving DecidableEq, Repr

/-- The APU (R197). -/
structure Apu where
  apuCycle   : Nat
  fsCounter  : Nat
  /-- false: 4-step, true: 5-step. -/
  fsMode     : Bool
  irqInhibit : Bool
  frameIrq   : Bool
  enP1       : Bool
  enP2       : Bool
  enTri      : Bool
  enNoise    : Bool
  p1         : Pulse
  p2         : Pulse
  tri        : Triangle
  noise      : Noise
  dmc        : Dmc
  deriving DecidableEq, Repr

/-- The controller ports (R222). -/
structure Ports where
  strobe : Bool
  shift1 : Byte
  shift2 : Byte
  deriving DecidableEq, Repr

/-- The buttons of one standard controller (R223). -/
structure Buttons where
  a      : Bool
  b      : Bool
  select : Bool
  start  : Bool
  up     : Bool
  down   : Bool
  left   : Bool
  right  : Bool
  deriving DecidableEq, Repr

/-- What the host gives the core between ticks, and the device it put on port 2 (R10, R227). -/
structure HostInputs where
  buttons1    : Buttons
  buttons2    : Buttons
  gunLight    : Bool
  gunTrigger  : Bool
  port2Device : Port2Device
  deriving DecidableEq, Repr

/-- What the core has handed to the host last (R227): the number of frames presented, the last frame's pixels in
`put_pixel` order, the levels of the last APU step (log 7). -/
structure Output where
  frames : Nat
  image  : List (BitVec 6)
  levels : Levels
  deriving DecidableEq, Repr

/-- The state of the whole system (R34). `draws` counts the open-bus draws made (log 2). -/
structure State where
  cpu    : Cpu
  ram    : Memory
  cart   : Cart
  prgRam : Memory
  chrRam : Memory
  vram   : Memory
  ppu    : Ppu
  apu    : Apu
  ports  : Ports
  host   : HostInputs
  out    : Output
  draws  : Nat
  deriving DecidableEq, Repr

/-! ### Power-on values -/

/-- A, X, Y, S = 0, P = 0x20, no stall, nothing pending, no fault (R35). PC is not read before Reset() loads it. -/
def Cpu.powerOn : Cpu :=
  { a := 0, x := 0, y := 0, s := 0, p := 0x20, pc := 0, stall := 0, nmiPending := false, irqPending := false
    cycle := 0, fault := none }

/-- The PPU at power-on with the given OAM and palette contents (R175). -/
def Ppu.powerOn (oam palette : Memory) : Ppu :=
  { scanline := 0, dot := 0, ctrl := 0, mask := 0, vbl := false, spr0 := false, ovf := false, w := false
    scrollX := 0, scrollY := 0, vaddr := 0, rbuf := 0, oamAddr := 0, oam := oam, palette := palette }

/-- Power-on values of the channels (R197). -/
def Envelope.powerOn : Envelope :=
  { lenHalt := false, constVol := false, volPeriod := 0, start := false, div := 0, decay := 0 }

def Pulse.powerOn : Pulse :=
  { duty := 0, env := Envelope.powerOn, sweepEn := false, sweepPeriod := 0, sweepNeg := false, sweepShift := 0
    sweepDiv := 0, sweepReload := false, timerPeriod := 0, timer := 0, phase := 0, len := 0 }

def Triangle.powerOn : Triangle :=
  { linCtrl := false, linReloadVal := 0, lin := 0, linReload := false, timerPeriod := 0, timer := 0, step := 0, len := 0 }

def Noise.powerOn : Noise :=
  { env := Envelope.powerOn, mode := false, periodIdx := 0, timer := 0, len := 0, lfsr := 1 }

def Dmc.powerOn : Dmc :=
  { irqEn := false, loop := false, rateIdx := 0, timer := 0, out := 0, sampleAddrReg := 0, sampleLenReg := 0
    curAddr := 0xC000, bytesLeft := 0, buffer := 0, bufferEmpty := true, shift := 0, bitsLeft := 8, silence := true
    dmcIrq := false }

def Apu.powerOn : Apu :=
  { apuCycle := 0, fsCounter := 0, fsMode := false, irqInhibit := false, frameIrq := false
    enP1 := false, enP2 := false, enTri := false, enNoise := false
    p1 := Pulse.powerOn, p2 := Pulse.powerOn, tri := Triangle.powerOn, noise := Noise.powerOn, dmc := Dmc.powerOn }

/-- The ports at power-on (R222). -/
def Ports.powerOn : Ports := { strobe := false, shift1 := 0, shift2 := 0 }

/-- No button pressed. -/
def Buttons.released : Buttons :=
  { a := false, b := false, select := false, start := false, up := false, down := false, left := false, right := false }

/-- The host's inputs before it has acted: nothing pressed, no light sensed. DESIGN CHOICE, log 6. -/
def HostInputs.idle (device : Port2Device) : HostInputs :=
  { buttons1 := Buttons.released, buttons2 := Buttons.released, gunLight := false, gunTrigger := false
    port2Device := device }

/-- Nothing has been handed to the host yet. DESIGN CHOICE, log 7. -/
def Output.initial : Output :=
  { frames := 0, image := [], levels := { pulse1 := 0, pulse2 := 0, triangle := 0, noise := 0, dmc := 0 } }

/-- The construction parameters (R10, R232): the cartridge, the power-on contents of each memory, the port-2 device. -/
structure Params where
  cart        : Cart
  initRam     : List Byte
  initVram    : List Byte
  initOam     : List Byte
  initPalette : List Byte
  initPrgRam  : List Byte
  initChrRam  : List Byte
  port2Device : Port2Device
  deriving DecidableEq, Repr

/-- Every register at its power-on value, every memory at its parameter, before Reset() (R232, R234). -/
def State.powerOn (q : Params) : State :=
  { cpu := Cpu.powerOn
    ram := Memory.ofBytes Config.ramSize q.initRam
    cart := q.cart
    prgRam := Memory.ofBytes Config.prgRamSize q.initPrgRam
    chrRam := Memory.ofBytes Config.chrRamSize q.initChrRam
    vram := Memory.ofBytes (vramSize q.cart.mirroring) q.initVram
    ppu := Ppu.powerOn (Memory.ofBytes Config.oamSize q.initOam) (Memory.ofBytes Config.paletteSize q.initPalette)
    apu := Apu.powerOn
    ports := Ports.powerOn
    host := HostInputs.idle q.port2Device
    out := Output.initial
    draws := 0 }

/-- The parameters of State.reset: the blank cartridge, nothing listed in any memory, a standard controller on port 2.
DESIGN CHOICE, log 3 and log 4. -/
def Params.blank : Params :=
  { cart := Cart.blank, initRam := [], initVram := [], initOam := [], initPalette := [], initPrgRam := []
    initChrRam := [], port2Device := .standard }

/-- The machine right after power-on and Reset() (R233, R234), with the blank parameters: S = 0xFD, P = 0x24, stall 7,
and PC the vector read from the empty PRG ROM. -/
def State.reset : State :=
  { cpu := { Cpu.powerOn with s := 0xFD, p := 0x24, pc := 0x0000, stall := 7 }
    ram := []
    cart := Cart.blank
    prgRam := []
    chrRam := []
    vram := []
    ppu := Ppu.powerOn [] []
    apu := Apu.powerOn
    ports := Ports.powerOn
    host := HostInputs.idle .standard
    out := Output.initial
    draws := 0 }

end Sys2Proof.Machine
end

