-- ==== Sys2Proof/Machine/Regs.lean ====
section
/-! DEFINITION. Updates of one field of the state each, the open-bus draw (R43), the interrupt requests (60_exceptions.md
R163), and the outcome of a bus access: a value and the next state, or a fault that keeps every earlier effect (R160). -/

namespace Sys2Proof.Machine

/-! ### One update per field -/

def State.setA (v : Byte) (s : State) : State := { s with cpu := { s.cpu with a := v } }
def State.setX (v : Byte) (s : State) : State := { s with cpu := { s.cpu with x := v } }
def State.setY (v : Byte) (s : State) : State := { s with cpu := { s.cpu with y := v } }
def State.setS (v : Byte) (s : State) : State := { s with cpu := { s.cpu with s := v } }
def State.setP (v : Byte) (s : State) : State := { s with cpu := { s.cpu with p := v } }
def State.setPc (v : Addr) (s : State) : State := { s with cpu := { s.cpu with pc := v } }
def State.setStall (n : Nat) (s : State) : State := { s with cpu := { s.cpu with stall := n } }
def State.setNmi (b : Bool) (s : State) : State := { s with cpu := { s.cpu with nmiPending := b } }
def State.setIrq (b : Bool) (s : State) : State := { s with cpu := { s.cpu with irqPending := b } }
def State.setCycle (n : Nat) (s : State) : State := { s with cpu := { s.cpu with cycle := n } }
def State.setFault (f : Option Fault) (s : State) : State := { s with cpu := { s.cpu with fault := f } }
def State.setRam (m : Memory) (s : State) : State := { s with ram := m }
def State.setCart (c : Cart) (s : State) : State := { s with cart := c }
def State.setPrgRam (m : Memory) (s : State) : State := { s with prgRam := m }
def State.setChrRam (m : Memory) (s : State) : State := { s with chrRam := m }
def State.setVram (m : Memory) (s : State) : State := { s with vram := m }
def State.setPpu (p : Ppu) (s : State) : State := { s with ppu := p }
def State.setApu (a : Apu) (s : State) : State := { s with apu := a }
def State.setPorts (p : Ports) (s : State) : State := { s with ports := p }
def State.setHost (h : HostInputs) (s : State) : State := { s with host := h }
def State.setOut (o : Output) (s : State) : State := { s with out := o }
def State.setDraws (n : Nat) (s : State) : State := { s with draws := n }

/-- `stall(n)` (R14): n more CPU cycles before the next boundary. -/
def State.addStall (n : Nat) (s : State) : State := s.setStall (s.cpu.stall + n)

/-- `RequestNMI()` (R163). -/
def State.requestNmi (s : State) : State := s.setNmi true

/-- `RequestIRQ()` when `b` holds (R163). -/
def State.requestIrqIf (b : Bool) (s : State) : State := if b then s.setIrq true else s

/-- The byte `draw openBus` takes in this state, and the state with the draw counted (R43). -/
def openBusByte (s : State) : Byte := Config.openBus s.draws
def State.countDraw (s : State) : State := s.setDraws (s.draws + 1)

/-! ### Accesses that may fault -/

/-- What a statement of the pseudocode leaves: a value and the state, or a raised fault and the state with every effect
made before it (R160). -/
inductive Access (α : Type) where
  | ok   (v : α) (s : State)
  | stop (r : Fault) (s : State)
  deriving DecidableEq, Repr

/-- The next statement runs only if this one raised no fault (R160). -/
def Access.andThen {α β : Type} (m : Access α) (f : α → State → Access β) : Access β :=
  match m with
  | .ok v s => f v s
  | .stop r s => .stop r s

/-- The outcomes of exec and step. -/
abbrev Result := Host.Outcome State Fault Refusal

/-- `raise Fault` (R160): the record is set; everything else stays as the interrupted pseudocode left it. -/
def raiseFault (r : Fault) (s : State) : State := s.setFault (some r)

/-- Ends an instruction whose base count is `base` and whose penalties are the value: `stall ← stall + n − 1` (R164);
a fault ends it with the record set and no cycle count (log 5). -/
def complete (base : Nat) (m : Access Nat) : Result :=
  match m with
  | .ok extra s => .next (s.addStall (base + extra - 1))
  | .stop r s => .next (raiseFault r s)

end Sys2Proof.Machine
end

