-- ==== Sys2Proof/Machine/Apu.lean ====
section
/-! DEFINITION. The APU apart from its memory reader (62_apu.md): register writes (R198, R199, R201, R204), the frame
sequencer (R203), the shared units (R205, R206), the five channels (R207–R216) and their output levels (R219). -/

namespace Sys2Proof.Machine

/-! ### Shared units -/

/-- LENGTH (R199). -/
def lengthTable : List (BitVec 8) :=
  [10, 254, 20, 2, 40, 4, 80, 6, 160, 8, 60, 10, 14, 12, 26, 14] ++
  [12, 16, 24, 18, 48, 20, 96, 22, 192, 24, 72, 26, 16, 28, 32, 30]

/-- The length-counter load (R199): the table's value at index `v[7:3]`, or 0 when the channel is disabled. -/
def lengthLoad (enabled : Bool) (v : Byte) : BitVec 8 := if enabled then lengthTable.getD (v.toNat / 8) 0 else 0

/-- Length-counter clock (R206). -/
def lengthClock (halt : Bool) (len : BitVec 8) : BitVec 8 := if !halt && len != 0 then len - 1 else len

/-- Envelope clock (R205). -/
def envelopeClock (e : Envelope) : Envelope :=
  if e.start then { e with start := false, decay := 15, div := e.volPeriod }
  else if e.div = 0 then
    { e with div := e.volPeriod
             decay := if e.decay ≠ 0 then e.decay - 1 else if e.lenHalt then 15 else e.decay }
  else { e with div := e.div - 1 }

/-- `EnvVolume` (R205). -/
def envVolume (e : Envelope) : BitVec 4 := if e.constVol then e.volPeriod else e.decay

/-- The control byte's fields that the envelope holds: bit 5, bit 4, bits 3:0 (R198). -/
def envelopeControl (v : Byte) (e : Envelope) : Envelope :=
  { e with lenHalt := bitOf v 5, constVol := bitOf v 4, volPeriod := v.setWidth 4 }

/-- The envelope with its start flag armed. -/
def envelopeRestart (e : Envelope) : Envelope := { e with start := true }

/-! ### Pulse channels -/

/-- Which pulse channel: their sweep negation differs (R208). -/
inductive PulseId where
  | p1
  | p2
  deriving DecidableEq, Repr

/-- DUTY, the bit at phase 0..7 (R207). -/
def dutyTable (d : BitVec 2) : List Bool :=
  match d.toNat with
  | 0 => [false, true, false, false, false, false, false, false]
  | 1 => [false, true, true, false, false, false, false, false]
  | 2 => [false, true, true, true, true, false, false, false]
  | _ => [true, false, false, true, true, true, true, true]

def dutyBit (p : Pulse) : Bool := (dutyTable p.duty).getD p.phase.toNat false

/-- `PulseTimer(ch)` (R207). -/
def pulseTimer (p : Pulse) : Pulse :=
  if p.timer = 0 then { p with timer := p.timerPeriod, phase := p.phase + 1 } else { p with timer := p.timer - 1 }

/-- `Target(ch)` (R208), an exact integer: one's complement on pulse 1, two's on pulse 2. -/
def sweepTarget (id : PulseId) (p : Pulse) : Int :=
  let c : Int := (p.timerPeriod >>> p.sweepShift.toNat).toNat
  let t : Int := p.timerPeriod.toNat
  if !p.sweepNeg then t + c
  else match id with
    | .p1 => t - c - 1
    | .p2 => t - c

/-- `Muted(ch)` (R208). -/
def pulseMuted (id : PulseId) (p : Pulse) : Bool :=
  decide (p.timerPeriod.toNat < 8) || (!p.sweepNeg && decide (0x7FF < sweepTarget id p))

/-- `SweepClock(ch)` (R208): the period update, then the divider. -/
def sweepClock (id : PulseId) (p : Pulse) : Pulse :=
  let p' :=
    if p.sweepDiv = 0 ∧ p.sweepEn = true ∧ p.sweepShift ≠ 0 ∧ pulseMuted id p = false then
      { p with timerPeriod := BitVec.ofInt 11 (sweepTarget id p) }
    else p
  if p.sweepDiv = 0 ∨ p.sweepReload = true then { p' with sweepDiv := p.sweepPeriod, sweepReload := false }
  else { p' with sweepDiv := p.sweepDiv - 1 }

/-- Pulse level (R209). -/
def pulseLevel (id : PulseId) (p : Pulse) : BitVec 4 :=
  if p.len = 0 ∨ pulseMuted id p = true ∨ dutyBit p = false then 0 else envVolume p.env

/-- Quarter- and half-frame clocks of a pulse channel (R203). -/
def pulseQuarter (p : Pulse) : Pulse := { p with env := envelopeClock p.env }
def pulseHalf (id : PulseId) (p : Pulse) : Pulse := sweepClock id { p with len := lengthClock p.env.lenHalt p.len }

/-- Bits 10:8 of a timer period replaced, and bits 7:0 replaced (R198). -/
def timerHigh (v : Byte) (t : BitVec 11) : BitVec 11 := v.setWidth 3 ++ t.setWidth 8
def timerLow (v : Byte) (t : BitVec 11) : BitVec 11 := t.extractLsb' 8 3 ++ v

/-- The four registers of a pulse channel, `r` = 0..3 (R198, R199). -/
def pulseWrite (enabled : Bool) (r : Nat) (v : Byte) (p : Pulse) : Pulse :=
  match r with
  | 0 => { p with duty := v.extractLsb' 6 2, env := envelopeControl v p.env }
  | 1 => { p with sweepEn := bitOf v 7, sweepPeriod := v.extractLsb' 4 3, sweepNeg := bitOf v 3
                  sweepShift := v.setWidth 3, sweepReload := true }
  | 2 => { p with timerPeriod := timerLow v p.timerPeriod }
  | _ => { p with timerPeriod := timerHigh v p.timerPeriod, len := lengthLoad enabled v
                  env := envelopeRestart p.env, phase := 0, sweepReload := true }

/-! ### Triangle channel -/

/-- Linear-counter clock (R210). -/
def linearClock (t : Triangle) : Triangle :=
  let t' :=
    if t.linReload then { t with lin := t.linReloadVal }
    else if t.lin ≠ 0 then { t with lin := t.lin - 1 }
    else t
  if t.linCtrl then t' else { t' with linReload := false }

/-- `TriTimer()` (R211). -/
def triTimer (t : Triangle) : Triangle :=
  if t.timer = 0 then
    { t with timer := t.timerPeriod, step := if t.len ≠ 0 ∧ t.lin ≠ 0 then t.step + 1 else t.step }
  else { t with timer := t.timer - 1 }

/-- TRI, 15 down to 0 and up again (R211). -/
def triValue (step : BitVec 5) : BitVec 4 :=
  if step.toNat < 16 then BitVec.ofNat 4 (15 - step.toNat) else BitVec.ofNat 4 (step.toNat - 16)

/-- Triangle level: 0 unless both counters run (R212). -/
def triLevel (t : Triangle) : BitVec 4 := if t.len ≠ 0 ∧ t.lin ≠ 0 then triValue t.step else 0

/-- The half-frame clock of the triangle (R206). -/
def triHalf (t : Triangle) : Triangle := { t with len := lengthClock t.linCtrl t.len }

/-! ### Noise channel -/

/-- NOISE_PERIOD in CPU cycles (R214). -/
def noisePeriods : List Nat := [4, 8, 16, 32, 64, 96, 128, 160, 202, 254, 380, 508, 762, 1016, 2034, 4068]

/-- The shift register's next value (R214). -/
def lfsrNext (mode : Bool) (l : BitVec 15) : BitVec 15 :=
  let fb := (l.getLsbD 0).xor (if mode then l.getLsbD 6 else l.getLsbD 1)
  (l >>> 1) ||| (if fb then 0x4000 else 0)

/-- `NoiseTimer()` (R214). -/
def noiseTimer (n : Noise) : Noise :=
  if n.timer = 0 then
    { n with timer := BitVec.ofNat 12 (noisePeriods.getD n.periodIdx.toNat 4 - 1), lfsr := lfsrNext n.mode n.lfsr }
  else { n with timer := n.timer - 1 }

/-- Noise level (R215). -/
def noiseLevel (n : Noise) : BitVec 4 := if n.len = 0 ∨ n.lfsr.getLsbD 0 = true then 0 else envVolume n.env

/-- Quarter- and half-frame clocks of the noise channel (R203). -/
def noiseQuarter (n : Noise) : Noise := { n with env := envelopeClock n.env }
def noiseHalf (n : Noise) : Noise := { n with len := lengthClock n.env.lenHalt n.len }

/-! ### Delta-modulation channel, output unit -/

/-- DMC_RATE in CPU cycles (R216). -/
def dmcRates : List Nat := [428, 380, 340, 320, 286, 254, 226, 214, 190, 160, 142, 128, 106, 84, 72, 54]

/-- The output level after one shifted bit (R216). -/
def dmcOutNext (d : Dmc) : BitVec 7 :=
  if d.silence then d.out
  else if bitOf d.shift 0 then (if d.out.toNat ≤ 125 then d.out + 2 else d.out)
  else (if 2 ≤ d.out.toNat then d.out - 2 else d.out)

/-- The end of an output cycle: the buffer moves into the shift register, or the channel falls silent (R216). -/
def dmcReloadShift (d : Dmc) : Dmc :=
  if d.bufferEmpty then { d with bitsLeft := 8, silence := true }
  else { d with bitsLeft := 8, silence := false, shift := d.buffer, bufferEmpty := true }

/-- `DmcTimer()` (R216). -/
def dmcTimer (d : Dmc) : Dmc :=
  if d.timer ≠ 0 then { d with timer := d.timer - 1 }
  else
    let d' := { d with timer := BitVec.ofNat 9 (dmcRates.getD d.rateIdx.toNat 428 - 1), out := dmcOutNext d
                       shift := d.shift >>> 1, bitsLeft := d.bitsLeft - 1 }
    if d'.bitsLeft = 0 then dmcReloadShift d' else d'

/-- `0xC000 + 64·sampleAddrReg` (R198). -/
def dmcStart (d : Dmc) : Addr := (0xC000 : Addr) + (zext16 d.sampleAddrReg <<< 6)

/-- `16·sampleLenReg + 1` (R198). -/
def dmcLength (d : Dmc) : BitVec 12 := (d.sampleLenReg.setWidth 12 <<< 4) + 1

/-- A sample restarts at its registers' address and length (R201, R217). -/
def dmcRestart (d : Dmc) : Dmc := { d with curAddr := dmcStart d, bytesLeft := dmcLength d }

/-- The four registers of the DMC, `r` = 0..3 (R198). -/
def dmcWrite (r : Nat) (v : Byte) (d : Dmc) : Dmc :=
  match r with
  | 0 => { d with irqEn := bitOf v 7, loop := bitOf v 6, rateIdx := v.setWidth 4
                  dmcIrq := if bitOf v 7 then d.dmcIrq else false }
  | 1 => { d with out := v.setWidth 7 }
  | 2 => { d with sampleAddrReg := v }
  | _ => { d with sampleLenReg := v }

/-! ### Frame sequencer -/

/-- `Quarter()` (R203). -/
def quarterFrame (a : Apu) : Apu :=
  { a with p1 := pulseQuarter a.p1, p2 := pulseQuarter a.p2, noise := noiseQuarter a.noise, tri := linearClock a.tri }

/-- `Half()` (R203). -/
def halfFrame (a : Apu) : Apu :=
  { a with p1 := pulseHalf .p1 a.p1, p2 := pulseHalf .p2 a.p2, tri := triHalf a.tri, noise := noiseHalf a.noise }

/-- `SetFrameIrq()` (R203): the flag, and whether it changed from 0 to 1 and so requests an IRQ (R218). -/
def setFrameIrq (a : Apu) : Apu × Bool := ({ a with frameIrq := true }, !a.frameIrq)

/-- The 4-step sequence at the counter value just reached (R203). -/
def fourStep (a : Apu) : Apu × Bool :=
  if a.fsCounter = 7457 then (quarterFrame a, false)
  else if a.fsCounter = 14913 then (halfFrame (quarterFrame a), false)
  else if a.fsCounter = 22371 then (quarterFrame a, false)
  else if a.fsCounter = 29829 then
    let a' := halfFrame (quarterFrame a)
    if a'.irqInhibit then (a', false) else setFrameIrq a'
  else if a.fsCounter = 29830 then ({ a with fsCounter := 0 }, false)
  else (a, false)

/-- The 5-step sequence; it never sets `frameIrq` (R203). -/
def fiveStep (a : Apu) : Apu :=
  if a.fsCounter = 7457 then quarterFrame a
  else if a.fsCounter = 14913 then halfFrame (quarterFrame a)
  else if a.fsCounter = 22371 then quarterFrame a
  else if a.fsCounter = 37281 then halfFrame (quarterFrame a)
  else if a.fsCounter = 37282 then { a with fsCounter := 0 }
  else a

/-- `FrameSeqStep()` (R203): the APU, and whether an IRQ is requested. -/
def frameSeqStep (a : Apu) : Apu × Bool :=
  let a' := { a with fsCounter := a.fsCounter + 1 }
  if a'.fsMode then (fiveStep a', false) else fourStep a'

/-! ### Registers 0x4000–0x4013, 0x4015, 0x4017 -/

/-- A write to the channel register at 0x4000 + `r`, `r` ≤ 0x13 (R198); 0x4009 and 0x400D reach nothing. -/
def channelWrite (r : Nat) (v : Byte) (a : Apu) : Apu :=
  if r < 4 then { a with p1 := pulseWrite a.enP1 r v a.p1 }
  else if r < 8 then { a with p2 := pulseWrite a.enP2 (r - 4) v a.p2 }
  else match r with
    | 0x08 => { a with tri := { a.tri with linCtrl := bitOf v 7, linReloadVal := v.setWidth 7 } }
    | 0x0A => { a with tri := { a.tri with timerPeriod := timerLow v a.tri.timerPeriod } }
    | 0x0B => { a with tri := { a.tri with timerPeriod := timerHigh v a.tri.timerPeriod
                                           len := lengthLoad a.enTri v, linReload := true } }
    | 0x0C => { a with noise := { a.noise with env := envelopeControl v a.noise.env } }
    | 0x0E => { a with noise := { a.noise with mode := bitOf v 7, periodIdx := v.setWidth 4 } }
    | 0x0F => { a with noise := { a.noise with len := lengthLoad a.enNoise v, env := envelopeRestart a.noise.env } }
    | 0x10 => { a with dmc := dmcWrite 0 v a.dmc }
    | 0x11 => { a with dmc := dmcWrite 1 v a.dmc }
    | 0x12 => { a with dmc := dmcWrite 2 v a.dmc }
    | 0x13 => { a with dmc := dmcWrite 3 v a.dmc }
    | _ => a

/-- A length counter under its enable bit: 0 when disabled (R201). -/
def gateLen (enabled : Bool) (len : BitVec 8) : BitVec 8 := if enabled then len else 0

/-- The DMC part of a 0x4015 write: bit 4 clear stops the sample, set starts one if none is left; `dmcIrq` clears (R201). -/
def dmcEnable (on : Bool) (d : Dmc) : Dmc :=
  let d' := if !on then { d with bytesLeft := 0 } else if d.bytesLeft = 0 then dmcRestart d else d
  { d' with dmcIrq := false }

/-- A write of v to 0x4015 (R201). -/
def enableWrite (v : Byte) (a : Apu) : Apu :=
  { a with enP1 := bitOf v 0, enP2 := bitOf v 1, enTri := bitOf v 2, enNoise := bitOf v 3
           p1 := { a.p1 with len := gateLen (bitOf v 0) a.p1.len }
           p2 := { a.p2 with len := gateLen (bitOf v 1) a.p2.len }
           tri := { a.tri with len := gateLen (bitOf v 2) a.tri.len }
           noise := { a.noise with len := gateLen (bitOf v 3) a.noise.len }
           dmc := dmcEnable (bitOf v 4) a.dmc }

/-- The byte a read of 0x4015 returns, bit 5 from the open-bus byte `o` (R200). -/
def apuStatus (a : Apu) (o : Byte) : Byte :=
  bitByte (a.p1.len != 0) ||| (bitByte (a.p2.len != 0) <<< 1) ||| (bitByte (a.tri.len != 0) <<< 2) |||
  (bitByte (a.noise.len != 0) <<< 3) ||| (bitByte (a.dmc.bytesLeft != 0) <<< 4) ||| ((o &&& 1) <<< 5) |||
  (bitByte a.frameIrq <<< 6) ||| (bitByte a.dmc.dmcIrq <<< 7)

/-- A write of v to 0x4017 (R204). -/
def frameCounterWrite (v : Byte) (a : Apu) : Apu :=
  let a' := { a with fsMode := bitOf v 7, irqInhibit := bitOf v 6
                     frameIrq := if bitOf v 6 then false else a.frameIrq, fsCounter := 0 }
  if bitOf v 7 then halfFrame (quarterFrame a') else a'

/-! ### Timers and levels -/

/-- The channel timers of one APU step, up to and including `DmcTimer` (R202). -/
def channelTimers (a : Apu) : Apu :=
  let a1 := if a.apuCycle % 2 = 0 then { a with p1 := pulseTimer a.p1, p2 := pulseTimer a.p2 } else a
  { a1 with tri := triTimer a1.tri, noise := noiseTimer a1.noise, dmc := dmcTimer a1.dmc }

/-- `Levels()` (R219). -/
def apuLevels (a : Apu) : Levels :=
  { pulse1 := pulseLevel .p1 a.p1, pulse2 := pulseLevel .p2 a.p2, triangle := triLevel a.tri
    noise := noiseLevel a.noise, dmc := a.dmc.out }

/-- The sound of a level sequence, by the host's mixer (R219, D42). -/
def audioOf (levels : List Levels) : SampleBuffer := Config.audioMix levels

end Sys2Proof.Machine
end

