-- ==== Sys2Proof/Machine/Video.lean ====
section
/-! DEFINITION. The video bus (20_memory.md R52–R55) and what the PPU computes from it: background and sprite pixels, the
pixel output and the batch frame (61_ppu.md R190–R193). Video accesses have no side effects and never fault. -/

namespace Sys2Proof.Machine

/-! ### The video address space -/

/-- `PalIndex(a)`: entry 0 of every 4-entry block is entry 0 (R55). -/
def palIndex (a : Nat) : Nat := let i := a % 0x20; if i % 4 = 0 then 0 else i

/-- The address modulo 0x4000 with 0x3000–0x3EFF folded onto 0x2000–0x2EFF (R53). -/
def foldVideo (a : Nat) : Nat :=
  let a := a % 0x4000
  if 0x3000 ≤ a ∧ a ≤ 0x3EFF then a - 0x1000 else a

/-- Mapper 0's read-video in pattern-table space (R52). -/
def patternRead (s : State) (a : Nat) : Byte :=
  if s.cart.chrUnits = 0 then Memory.read s.chrRam a
  else Memory.read s.cart.chr (a % chrBytes s.cart.chrUnits)

/-- Mapper 0's write-video: CHR ROM ignores it, CHR RAM takes it (R52). -/
def patternWrite (a : Nat) (v : Byte) (s : State) : State :=
  if s.cart.chrUnits = 0 then s.setChrRam (Memory.write s.chrRam a v) else s

/-- `VRead(a)` (R53). -/
def vread (s : State) (a : Nat) : Byte :=
  let a := foldVideo a
  if a < 0x2000 then patternRead s a
  else if a < 0x3000 then Memory.read s.vram (ntIndex s.cart.mirroring a)
  else Memory.read s.ppu.palette (palIndex a)

/-- `VWrite(a, v)` (R53). -/
def vwrite (a : Nat) (v : Byte) (s : State) : State :=
  let a := foldVideo a
  if a < 0x2000 then patternWrite a v s
  else if a < 0x3000 then s.setVram (Memory.write s.vram (ntIndex s.cart.mirroring a) v)
  else s.setPpu { s.ppu with palette := Memory.write s.ppu.palette (palIndex a) v }

/-! ### Background (R191) -/

/-- PPUMASK bits (R178). -/
def bgEnabled (s : State) : Bool := bitOf s.ppu.mask 3
def sprEnabled (s : State) : Bool := bitOf s.ppu.mask 4
def bgLeft (s : State) : Bool := bitOf s.ppu.mask 1
def sprLeft (s : State) : Bool := bitOf s.ppu.mask 2

/-- "Rendering enabled": background or sprites on (R178). -/
def renderingEnabled (s : State) : Bool := bgEnabled s || sprEnabled s

/-- The two bit planes of one pattern row at `base + tile·16 + row`, and the pixel at bit `b` of them:
`(hi[b] << 1) | lo[b]` (R191). -/
def patternPixel (s : State) (base tile row b : Nat) : Nat :=
  let lo := vread s (base + tile * 16 + row)
  let hi := vread s (base + tile * 16 + row + 8)
  2 * (bitOf hi b).toNat + (bitOf lo b).toNat

/-- Background pixel at scrolled position (wx, wy), 0 ≤ wx < 512, 0 ≤ wy < 480: palette offset 0..15, 0 transparent. -/
def bgAt (s : State) (wx wy : Nat) : Nat :=
  let nt := wx / 256 + 2 * (wy / 240)
  let col := wx % 256
  let row := wy % 240
  let ntBase := 0x2000 + 0x400 * nt
  let index := (vread s (ntBase + (row / 8) * 32 + col / 8)).toNat
  let pbase := if bitOf s.ppu.ctrl 4 then 0x1000 else 0
  let c := patternPixel s pbase index (row % 8) (7 - col % 8)
  if c = 0 then 0
  else
    let tx := col / 8
    let ty := row / 8
    let attr := (vread s (ntBase + 0x3C0 + (ty / 4) * 8 + tx / 4)).toNat
    let q := ((ty % 4) / 2) * 2 + (tx % 4) / 2
    (attr / 2 ^ (2 * q) % 4) * 4 + c

/-- `BgPixel(x, y)` (R191): 0 where hidden, otherwise the pixel at the scrolled position. -/
def bgPixel (s : State) (x y : Nat) : Nat :=
  if !bgEnabled s || (decide (x < 8) && !bgLeft s) then 0
  else
    bgAt s ((x + s.ppu.scrollX.toNat + 256 * (bitOf s.ppu.ctrl 0).toNat) % 512)
      ((y + s.ppu.scrollY.toNat + 240 * (bitOf s.ppu.ctrl 1).toNat) % 480)

/-! ### Sprites (R192) -/

/-- Byte `k` of OAM entry `i`: Y, tile, attributes, X. -/
def oamByte (s : State) (i k : Nat) : Byte := Memory.read s.ppu.oam (4 * i + k)

/-- Sprite height from PPUCTRL bit 5 (R177). -/
def spriteHeight (s : State) : Nat := if bitOf s.ppu.ctrl 5 then 16 else 8

/-- A sprite pixel: palette offset 16..31 and the behind flag. -/
structure SpritePixel where
  idx    : Nat
  behind : Bool
  deriving DecidableEq, Repr

/-- `SprPixelOf(i, x, y)` (R192). -/
def sprPixelOf (s : State) (i x y : Nat) : Option SpritePixel :=
  let top := (oamByte s i 0).toNat
  let tile := (oamByte s i 1).toNat
  let at' := oamByte s i 2
  let left := (oamByte s i 3).toNat
  let h := spriteHeight s
  if 239 ≤ top ∨ y < top + 1 ∨ top + 1 + h ≤ y ∨ x < left ∨ left + 8 ≤ x then none
  else
    let r0 := y - (top + 1)
    let c := x - left
    let r := if bitOf at' 7 then h - 1 - r0 else r0
    let b := if bitOf at' 6 then c else 7 - c
    let k :=
      if h = 8 then patternPixel s (if bitOf s.ppu.ctrl 3 then 0x1000 else 0) tile r b
      else patternPixel s ((tile % 2) * 0x1000) (tile - tile % 2 + (if 8 ≤ r then 1 else 0)) (r % 8) b
    if k = 0 then none
    else some { idx := 16 + (at'.toNat % 4) * 4 + k, behind := bitOf at' 5 }

/-- The first of the sprites in the list that is opaque at (x, y). -/
def firstSprite (s : State) (x y : Nat) : List Nat → Option SpritePixel
  | [] => none
  | i :: rest =>
    match sprPixelOf s i x y with
    | some p => some p
    | none => firstSprite s x y rest

/-- `SprPixel(x, y)`: the lowest opaque index wins (R192). -/
def sprPixel (s : State) (x y : Nat) : Option SpritePixel :=
  if !sprEnabled s || (decide (x < 8) && !sprLeft s) then none
  else firstSprite s x y (List.range 64)

/-! ### Output (R193, R190) -/

/-- The palette byte of an offset 0..31. -/
def paletteAt (s : State) (offset : Nat) : Byte := Memory.read s.ppu.palette (palIndex (0x3F00 + offset))

/-- The palette byte a pixel shows, before masking (R193). -/
def pixelByte (s : State) (x y : Nat) : Byte :=
  if !renderingEnabled s then Memory.read s.ppu.palette 0
  else
    let bg := bgPixel s x y
    match sprPixel s x y with
    | some sp => if bg = 0 ∨ sp.behind = false then paletteAt s sp.idx else paletteAt s bg
    | none => if bg ≠ 0 then paletteAt s bg else Memory.read s.ppu.palette 0

/-- `PixelOut(x, y)`: the 6-bit system colour, masked to 0x30 in greyscale (R193). -/
def pixelOut (s : State) (x y : Nat) : BitVec 6 :=
  let v := (pixelByte s x y).setWidth 6
  if bitOf s.ppu.mask 0 then v &&& 0x30 else v

/-- The 256 × 240 image, row-major (R190). -/
def frameImage (s : State) : List (BitVec 6) :=
  (List.range 240).flatMap fun y => (List.range 256).map fun x => pixelOut s x y

/-- `RenderFrame()`: the image goes to the pixel sink and the frame is presented (R190, R228). -/
def renderFrame (s : State) : State :=
  s.setOut { s.out with frames := s.out.frames + 1, image := frameImage s }

end Sys2Proof.Machine
end

