-- ==== Sys2Proof/Machine/Ppu.lean ====
section
/-! DEFINITION. The PPU's registers (61_ppu.md R176–R186, R189) and its dot state machine with the per-dot status events
(R187, R194, R195). -/

namespace Sys2Proof.Machine

/-! ### Register reads -/

/-- PPUSTATUS (R179): the byte read. -/
def statusRead (s : State) : Byte :=
  (bitByte s.ppu.vbl <<< 7) ||| (bitByte s.ppu.spr0 <<< 6) ||| (bitByte s.ppu.ovf <<< 5) ||| (openBusByte s &&& 0x1F)

/-- PPUSTATUS read (R179): VBLANK and the write toggle are cleared. -/
def readPpuStatus (s : State) : Byte × State :=
  (statusRead s, (s.setPpu { s.ppu with vbl := false, w := false }).countDraw)

/-- The PPUDATA increment (R177, R185). -/
def vaddrStep (s : State) : BitVec 16 := if bitOf s.ppu.ctrl 2 then 32 else 1

/-- `vaddr mod 0x4000`, the video address PPUDATA uses. -/
def dataAddr (s : State) : Nat := s.ppu.vaddr.toNat % 0x4000

/-- PPUDATA read (R185): palette space bypasses the buffer and leaves it unchanged. -/
def readPpuData (s : State) : Byte × State :=
  let next := s.ppu.vaddr + vaddrStep s
  if 0x3F00 ≤ dataAddr s then (vread s (dataAddr s), s.setPpu { s.ppu with vaddr := next })
  else (s.ppu.rbuf, s.setPpu { s.ppu with rbuf := vread s (dataAddr s), vaddr := next })

/-- A read of PPU register `0x2000 + r` (R176). -/
def readPpu (r : Nat) (s : State) : Byte × State :=
  match r with
  | 2 => readPpuStatus s
  | 4 => (Memory.read s.ppu.oam s.ppu.oamAddr.toNat, s)
  | 7 => readPpuData s
  | _ => (openBusByte s, s.countDraw)

/-! ### Register writes -/

/-- PPUCTRL (R177), with the NMI of a 0 → 1 change of bit 7 while `vbl` is 1 (R189). -/
def writePpuCtrl (v : Byte) (s : State) : State :=
  let edge := !bitOf s.ppu.ctrl 7 && bitOf v 7 && s.ppu.vbl
  let s' := s.setPpu { s.ppu with ctrl := v }
  if edge then s'.requestNmi else s'

/-- OAMDATA write (R182). -/
def writeOamData (v : Byte) (s : State) : State :=
  s.setPpu { s.ppu with oam := Memory.write s.ppu.oam s.ppu.oamAddr.toNat v, oamAddr := s.ppu.oamAddr + 1 }

/-- PPUSCROLL (R183). -/
def writePpuScroll (v : Byte) (s : State) : State :=
  if s.ppu.w then s.setPpu { s.ppu with scrollY := v, w := false }
  else s.setPpu { s.ppu with scrollX := v, w := true }

/-- PPUADDR (R184), high byte first. -/
def writePpuAddr (v : Byte) (s : State) : State :=
  if s.ppu.w then s.setPpu { s.ppu with vaddr := pair (highByte s.ppu.vaddr) v, w := false }
  else s.setPpu { s.ppu with vaddr := pair v (lowByte s.ppu.vaddr), w := true }

/-- PPUDATA write (R186). -/
def writePpuData (v : Byte) (s : State) : State :=
  let s' := vwrite (dataAddr s) v s
  s'.setPpu { s'.ppu with vaddr := s.ppu.vaddr + vaddrStep s }

/-- A write of PPU register `0x2000 + r` (R176); PPUSTATUS ignores it. -/
def writePpu (r : Nat) (v : Byte) (s : State) : State :=
  match r with
  | 0 => writePpuCtrl v s
  | 1 => s.setPpu { s.ppu with mask := v }
  | 3 => s.setPpu { s.ppu with oamAddr := v }
  | 4 => writeOamData v s
  | 5 => writePpuScroll v s
  | 6 => writePpuAddr v s
  | 7 => writePpuData v s
  | _ => s

/-! ### The dot state machine -/

/-- At (240, 0): VBLANK set, NMI requested if enabled, the frame rendered (R187). -/
def vblankStart (s : State) : State :=
  let s1 := s.setPpu { s.ppu with vbl := true }
  let s2 := if bitOf s1.ppu.ctrl 7 then s1.requestNmi else s1
  renderFrame s2

/-- At (261, 1): the three status bits clear (R187). -/
def preRenderClear (s : State) : State :=
  s.setPpu { s.ppu with vbl := false, spr0 := false, ovf := false }

/-- Sprite 0 and the background are both opaque and shown at (x, y) (R194). -/
def sprite0Hits (s : State) (x y : Nat) : Bool :=
  bgEnabled s && sprEnabled s && decide (x ≠ 255) && !(decide (x < 8) && (!bgLeft s || !sprLeft s)) &&
    decide (bgPixel s x y ≠ 0) && (sprPixelOf s 0 x y).isSome

/-- `Sprite0Check(y, x)` (R194). -/
def sprite0Check (y x : Nat) (s : State) : State :=
  if sprite0Hits s x y then s.setPpu { s.ppu with spr0 := true } else s

/-- Sprite `i` is on line `y` by the overflow count's test `0 ≤ y − oam[4i] < H` (R195). -/
def onLine (s : State) (y i : Nat) : Bool :=
  let top := (oamByte s i 0).toNat
  decide (top ≤ y) && decide (y < top + spriteHeight s)

/-- `OverflowCheck(s)` (R195): more than 8 sprites on the line. -/
def overflowCheck (y : Nat) (s : State) : State :=
  if renderingEnabled s && decide (8 < ((List.range 64).filter (onLine s y)).length) then
    s.setPpu { s.ppu with ovf := true }
  else s

/-- The events of the current position, in the order of R187. -/
def dotEvents (s : State) : State :=
  let y := s.ppu.scanline
  let d := s.ppu.dot
  let s1 := if y = 240 ∧ d = 0 then vblankStart s else s
  let s2 := if y = 261 ∧ d = 1 then preRenderClear s1 else s1
  let s3 := if y ≤ 239 ∧ 1 ≤ d ∧ d ≤ 256 then sprite0Check y (d - 1) s2 else s2
  if y ≤ 239 ∧ d = 257 then overflowCheck y s3 else s3

/-- One dot on, wrapping at 341 dots and 262 scanlines (R187). -/
def advanceDot (s : State) : State :=
  let d := s.ppu.dot + 1
  let p := if d = Config.dotsPerLine then (s.ppu.scanline + 1, 0) else (s.ppu.scanline, d)
  s.setPpu { s.ppu with scanline := if p.1 = Config.linesPerFrame then 0 else p.1, dot := p.2 }

/-- `PPUStep()` (R187). -/
def ppuStep (s : State) : State := advanceDot (dotEvents s)

end Sys2Proof.Machine
end

