-- ==== Sys2Proof/Machine/Bus.lean ====
section
/-! DEFINITION. The CPU bus (20_memory.md R37–R42, R50, R51): one byte read or written at a 16-bit address, with every side
effect of that address; the controller ports (63_io_dma_host.md R223–R226) and OAM DMA (R221); the vectors (R44). -/

namespace Sys2Proof.Machine

/-! ### Address ranges (R37) -/

/-- The disabled range 0x4018–0x401F (R41). -/
def disabled (a : Addr) : Bool := decide (0x4018 ≤ a.toNat) && decide (a.toNat < 0x4020)

/-- `a & 0x07FF`: the RAM byte an address below 0x2000 reaches (R38). -/
def ramIndex (a : Addr) : Nat := a.toNat % 0x800

/-- `a - 0x6000`: the PRG RAM byte (R50, R51). -/
def prgRamIndex (a : Addr) : Nat := a.toNat - 0x6000

/-- The RAM byte at an address below 0x2000; no side effect (R38). -/
def ramByte (a : Addr) (s : State) : Byte := Memory.read s.ram (ramIndex a)

/-- The state with that RAM byte written. -/
def writeRam (a : Addr) (v : Byte) (s : State) : State := s.setRam (Memory.write s.ram (ramIndex a) v)

/-! ### Controller ports -/

/-- `Pack(b)` (R223). -/
def packButtons (b : Buttons) : Byte :=
  bitByte b.a ||| (bitByte b.b <<< 1) ||| (bitByte b.select <<< 2) ||| (bitByte b.start <<< 3) |||
  (bitByte b.up <<< 4) ||| (bitByte b.down <<< 5) ||| (bitByte b.left <<< 6) ||| (bitByte b.right <<< 7)

/-- A write of v to 0x4016 (R223). -/
def writeStrobe (v : Byte) (s : State) : State :=
  let new := bitOf v 0
  if s.ports.strobe || new then
    s.setPorts { strobe := new, shift1 := packButtons s.host.buttons1, shift2 := packButtons s.host.buttons2 }
  else s.setPorts { s.ports with strobe := new }

/-- The serial register after one read: shifted right, a 1 entering at bit 7 (R224). -/
def shiftPort (r : Byte) : Byte := (r >>> 1) ||| 0x80

/-- The open-bus bits 7:5 of a port read (R224, R226). -/
def portOpenBits (s : State) : Byte := openBusByte s &&& 0xE0

/-- `ReadPort(1)` (R224). -/
def readPort1 (s : State) : Byte × State :=
  if s.ports.strobe then (bitByte s.host.buttons1.a ||| portOpenBits s, s.countDraw)
  else (bitByte (bitOf s.ports.shift1 0) ||| portOpenBits s,
        (s.setPorts { s.ports with shift1 := shiftPort s.ports.shift1 }).countDraw)

/-- `ReadPort(2)`, a standard controller (R224). -/
def readPort2Standard (s : State) : Byte × State :=
  if s.ports.strobe then (bitByte s.host.buttons2.a ||| portOpenBits s, s.countDraw)
  else (bitByte (bitOf s.ports.shift2 0) ||| portOpenBits s,
        (s.setPorts { s.ports with shift2 := shiftPort s.ports.shift2 }).countDraw)

/-- A light-gun read of 0x4017: bit 3 is 0 when light is sensed, bit 4 the trigger (R226). -/
def readLightGun (s : State) : Byte × State :=
  ((bitByte (!s.host.gunLight) <<< 3) ||| (bitByte s.host.gunTrigger <<< 4) ||| portOpenBits s, s.countDraw)

/-- A read of 0x4017 (R225). -/
def readPort2 (s : State) : Byte × State :=
  match s.host.port2Device with
  | .standard => readPort2Standard s
  | .lightGun => readLightGun s

/-! ### The audio/IO window, reads -/

/-- A read of 0x4015 (R200): the frame-IRQ flag is cleared. -/
def readApuStatus (s : State) : Byte × State :=
  (apuStatus s.apu (openBusByte s), (s.setApu { s.apu with frameIrq := false }).countDraw)

/-- A read at 0x4000 ≤ a ≤ 0x4017, by exact address (R40). -/
def ioRead (a : Addr) (s : State) : Byte × State :=
  match a.toNat with
  | 0x4015 => readApuStatus s
  | 0x4016 => readPort1 s
  | 0x4017 => readPort2 s
  | _ => (openBusByte s, s.countDraw)

/-! ### Cartridge space (mapper 0) -/

/-- Mapper 0's read-CPU at a ≥ 0x4020 (R50). -/
def cartRead (a : Addr) (s : State) : Byte × State :=
  if a.toNat < 0x6000 then (openBusByte s, s.countDraw)
  else if a.toNat < 0x8000 then (Memory.read s.prgRam (prgRamIndex a), s)
  else (s.cart.readPrg a, s)

/-- Mapper 0's write-CPU: PRG RAM takes it, everything else ignores it (R50). -/
def cartWrite (a : Addr) (v : Byte) (s : State) : State :=
  if 0x6000 ≤ a.toNat ∧ a.toNat < 0x8000 then s.setPrgRam (Memory.write s.prgRam (prgRamIndex a) v) else s

/-! ### The bus -/

/-- `MemRead(a, 1)` (R13, R37). -/
def busRead (a : Addr) (s : State) : Access Byte :=
  if a.toNat < 0x2000 then .ok (ramByte a s) s
  else if a.toNat < 0x4000 then .ok (readPpu (a.toNat % 8) s).1 (readPpu (a.toNat % 8) s).2
  else if a.toNat < 0x4018 then .ok (ioRead a s).1 (ioRead a s).2
  else if a.toNat < 0x4020 then .stop (.invalidAddress a) s
  else .ok (cartRead a s).1 (cartRead a s).2

/-- The `left` last bytes of an OAM-DMA copy from page v: byte i = 256 − left of the page goes to
`oam[(oamAddr + i) mod 256]` (R221). -/
def oamDmaCopy (v : Byte) : Nat → State → Access Unit
  | 0, s => .ok () s
  | left + 1, s =>
    let i := BitVec.ofNat 8 (255 - left)
    (busRead (pair v i) s).andThen fun b s' =>
      oamDmaCopy v left (s'.setPpu { s'.ppu with oam := Memory.write s'.ppu.oam (s'.ppu.oamAddr + i).toNat b })

/-- The CPU cycles an OAM DMA adds: 513, one more when `cycle` is odd (R221). -/
def oamDmaStall (s : State) : Nat := 513 + s.cpu.cycle % 2

/-- `OamDma(v)` (R221): the 256 copies, then the stall. -/
def oamDma (v : Byte) (s : State) : Access Unit :=
  (oamDmaCopy v 256 s).andThen fun _ s' => .ok () (s'.addStall (oamDmaStall s'))

/-- A write at 0x4000 ≤ a ≤ 0x4017, by exact address (R40). -/
def ioWrite (a : Addr) (v : Byte) (s : State) : Access Unit :=
  match a.toNat with
  | 0x4014 => oamDma v s
  | 0x4015 => .ok () (s.setApu (enableWrite v s.apu))
  | 0x4016 => .ok () (writeStrobe v s)
  | 0x4017 => .ok () (s.setApu (frameCounterWrite v s.apu))
  | n => .ok () (s.setApu (channelWrite (n - 0x4000) v s.apu))

/-- `MemWrite(a, 1, v)` (R13, R37). -/
def busWrite (a : Addr) (v : Byte) (s : State) : Access Unit :=
  if a.toNat < 0x2000 then .ok () (writeRam a v s)
  else if a.toNat < 0x4000 then .ok () (writePpu (a.toNat % 8) v s)
  else if a.toNat < 0x4018 then ioWrite a v s
  else if a.toNat < 0x4020 then .stop (.invalidAddress a) s
  else .ok () (cartWrite a v s)

/-! ### Storage without side effects -/

/-- Which stored byte an address of the CPU space is: a byte of RAM, PRG RAM or PRG ROM. Device registers, open bus and
the disabled range store none. Addresses that mirror each other are one cell (R38, R50). -/
inductive StoredCell where
  | ram (k : Nat)
  | prgRam (k : Nat)
  | prgRom (k : Nat)
  deriving DecidableEq, Repr

def storedCell (c : Cart) (a : Addr) : Option StoredCell :=
  if a.toNat < 0x2000 then some (.ram (ramIndex a))
  else if a.toNat < 0x6000 then none
  else if a.toNat < 0x8000 then some (.prgRam (prgRamIndex a))
  else some (.prgRom (c.prgIndex a))

/-- The stored byte at an address, without the access (no side effect, R59); `none` where nothing is stored. -/
def peek (a : Addr) (s : State) : Option Byte :=
  match storedCell s.cart a with
  | some (.ram k) => some (Memory.read s.ram k)
  | some (.prgRam k) => some (Memory.read s.prgRam k)
  | some (.prgRom k) => some (Memory.read s.cart.prg k)
  | none => none

/-- `Read16(vector)` at the top of the space, where mapper 0 reads PRG ROM (R44, R50); low byte at `vector` (D5). -/
def readVector (vector : Addr) (s : State) : Addr := pair (s.cart.readPrg (vector + 1)) (s.cart.readPrg vector)

end Sys2Proof.Machine
end

