-- ==== Sys2Proof/Machine/Flags.lean ====
section
/-! DEFINITION. The status register's flags (10_state.md R24–R31) and every flag computation of the instruction rules:
N and Z of a result, the carry and overflow of ADC and SBC (R114, R115), compares (R120–R122), shifts (R131–R134). -/

namespace Sys2Proof.Machine

/-- The flags of P (R24). -/
inductive Flag where
  | c | z | i | d | b | v | n
  deriving DecidableEq, Repr

/-- Bit position in P: N V 1 B D I Z C (R24). -/
def flagBit : Flag → Nat
  | .c => 0
  | .z => 1
  | .i => 2
  | .d => 3
  | .b => 4
  | .v => 6
  | .n => 7

/-- `P.F`. -/
def getFlag (f : Flag) (p : Byte) : Bool := p.getLsbD (flagBit f)

/-- The byte with only the flag's bit set. -/
def flagMask (f : Flag) : Byte := BitVec.twoPow 8 (flagBit f)

/-- `P.F <- v`: one bit of P, the others kept. -/
def putFlag (f : Flag) (v : Bool) (p : Byte) : Byte :=
  if v then p ||| flagMask f else p &&& ~~~(flagMask f)

/-- `SetZN(v)` (R12). -/
def setZN (v : Byte) (p : Byte) : Byte := putFlag .n (bitOf v 7) (putFlag .z (v == 0) p)

/-- `Pbyte`: P read as a byte; bit 5 always reads 1 (R24). -/
def statusByte (p : Byte) : Byte := p ||| 0x20

/-- The byte PHP pushes: bits 4 and 5 are 1 (R109). -/
def phpByte (p : Byte) : Byte := statusByte p ||| 0x30

/-- "status-with-break-and-disable-set": the byte an interrupt entry pushes, bits 5, 4 and 2 are 1 (R165). -/
def entryByte (p : Byte) : Byte := statusByte p ||| 0x34

/-- The P a pulled byte makes: N V D I Z C from it, B cleared, bit 5 still 1 (R111, R150). -/
def pulledStatus (v : Byte) : Byte := (v &&& 0xCF) ||| 0x20

/-- What ADC or SBC leaves: the result byte, carry and overflow. -/
structure AluOut where
  value : Byte
  carry : Bool
  overflow : Bool
  deriving DecidableEq, Repr

/-- `s8` sums out of -128..127 are overflow (R114). -/
def outOfSignedByte (n : Int) : Bool := decide (n < -128) || decide (127 < n)

/-- ADC (R114): carry from bit 8 of the unsigned 9-bit sum, overflow from the range of the signed sum. -/
def adcOf (a m : Byte) (c : Bool) : AluOut :=
  let sum : BitVec 9 := a.setWidth 9 + m.setWidth 9 + (if c then 1 else 0)
  let ssum : Int := a.toInt + m.toInt + (if c then 1 else 0)
  { value := sum.setWidth 8, carry := sum.getLsbD 8, overflow := outOfSignedByte ssum }

/-- SBC (R115): A + ~M + C, overflow from the range of A − M − (1 − C). -/
def sbcOf (a m : Byte) (c : Bool) : AluOut :=
  let diff : BitVec 9 := a.setWidth 9 + (~~~m).setWidth 9 + (if c then 1 else 0)
  let sdiff : Int := a.toInt - m.toInt - (1 - (if c then 1 else 0))
  { value := diff.setWidth 8, carry := diff.getLsbD 8, overflow := outOfSignedByte sdiff }

/-- P after ADC or SBC: C, V, then Z and N of the result. -/
def aluStatus (o : AluOut) (p : Byte) : Byte := setZN o.value (putFlag .v o.overflow (putFlag .c o.carry p))

/-- P after comparing register `r` with `m`: C = (r ≥ m), Z = (r = m), N = bit 7 of the difference; V kept (R120). -/
def compareStatus (r m : Byte) (p : Byte) : Byte :=
  putFlag .n (bitOf (r - m) 7) (putFlag .z (r == m) (putFlag .c (decide (m.toNat ≤ r.toNat)) p))

/-- P after BIT: Z of A & M, N and V copied from bits 7 and 6 of the operand (R119). -/
def bitStatus (a m : Byte) (p : Byte) : Byte :=
  putFlag .v (bitOf m 6) (putFlag .n (bitOf m 7) (putFlag .z ((a &&& m) == 0) p))

/-- A read-modify-write computation: the result byte and, where the instruction writes it, the new carry. -/
structure RmwOut where
  value : Byte
  carry : Option Bool
  deriving DecidableEq, Repr

/-- ASL (R131): old bit 7 to C. -/
def aslOf (m : Byte) (_ : Bool) : RmwOut := { value := m <<< 1, carry := some (bitOf m 7) }

/-- LSR (R132): old bit 0 to C. -/
def lsrOf (m : Byte) (_ : Bool) : RmwOut := { value := m >>> 1, carry := some (bitOf m 0) }

/-- ROL (R133): the old carry enters bit 0, old bit 7 goes to C. -/
def rolOf (m : Byte) (c : Bool) : RmwOut := { value := (m <<< 1) ||| bitByte c, carry := some (bitOf m 7) }

/-- ROR (R134): the old carry enters bit 7, old bit 0 goes to C. -/
def rorOf (m : Byte) (c : Bool) : RmwOut := { value := (m >>> 1) ||| (bitByte c <<< 7), carry := some (bitOf m 0) }

/-- INC (R124) and DEC (R125) leave C alone. -/
def incOf (m : Byte) (_ : Bool) : RmwOut := { value := m + 1, carry := none }
def decOf (m : Byte) (_ : Bool) : RmwOut := { value := m - 1, carry := none }

/-- P with the carry a read-modify-write computes, before the result is stored. -/
def rmwCarry (o : RmwOut) (p : Byte) : Byte :=
  match o.carry with
  | some c => putFlag .c c p
  | none => p

end Sys2Proof.Machine
end

