-- ==== Sys2Proof/Machine/Ops.lean ====
section
/-! DEFINITION. The shared operations of the instruction rules: the stack (R13, R23), flag updates of the state, taking an
interrupt or BRK (60_exceptions.md R165) and returning from one (46_system_flags.md R150), reset (70 R233), and
the DMC memory reader with the APU step that holds it (62 R202, R217). -/

namespace Sys2Proof.Machine

/-! ### Registers and flags -/

/-- `P.F <- v` on the state. -/
def State.putF (f : Flag) (v : Bool) (s : State) : State := s.setP (putFlag f v s.cpu.p)

/-- `SetZN(v)` on the state (R12). -/
def State.setZN (v : Byte) (s : State) : State := s.setP (Machine.setZN v s.cpu.p)

/-- `R <- v; SetZN(v)`, with the register's own update `put`. -/
def loadRegister (put : Byte → State → State) (v : Byte) (s : State) : State := (put v s).setZN v

/-! ### Stack -/

/-- The stack byte S points at: `0x0100 | S` (R23). -/
def stackAddr (sp : Byte) : Addr := pair 0x01 sp

/-- `Push(v)` (R13). The stack page is RAM, which takes a write with no other effect (R38, R101). -/
def push (v : Byte) (s : State) : State := (writeRam (stackAddr s.cpu.s) v s).setS (s.cpu.s - 1)

/-- `Pull()` (R13): the byte pulled, and the state after it. -/
def pulled (s : State) : Byte := ramByte (stackAddr (s.cpu.s + 1)) s
def afterPull (s : State) : State := s.setS (s.cpu.s + 1)

/-- A 16-bit value pushed high byte first (R56). -/
def pushAddr (a : Addr) (s : State) : State := push (lowByte a) (push (highByte a) s)

/-- A 16-bit value pulled low byte first (R56). -/
def pulledAddr (s : State) : Addr := pair (pulled (afterPull s)) (pulled s)
def afterPullAddr (s : State) : State := afterPull (afterPull s)

/-! ### Taking an exception and returning from it -/

/-- The vectors (R44). -/
def nmiVector : Addr := 0xFFFA
def resetVector : Addr := 0xFFFC
def irqVector : Addr := 0xFFFE

/-- `Enter(vector)` (R165): PC and status pushed, I set, PC loaded from the vector. -/
def enterInterrupt (vector : Addr) (s : State) : State :=
  let s1 := pushAddr s.cpu.pc s
  let s2 := push (entryByte s1.cpu.p) s1
  let s3 := s2.putF .i true
  s3.setPc (readVector vector s3)

/-- P and then PC pulled from the stack, PC not adjusted (R150). -/
def returnFromInterrupt (s : State) : State :=
  let s1 := (afterPull s).setP (pulledStatus (pulled s))
  (afterPullAddr s1).setPc (pulledAddr s1)

/-! ### Reset -/

/-- The PPU part of Reset() (R233). -/
def resetPpu (p : Ppu) : Ppu := { p with ctrl := 0, mask := 0, w := false, scrollX := 0, scrollY := 0, rbuf := 0 }

/-- The APU part of Reset(): a 0x4015 write of 0, the frame-IRQ flag and the sequencer's counter cleared (R233). -/
def resetApu (a : Apu) : Apu := { enableWrite 0 a with frameIrq := false, fsCounter := 0 }

/-- `Reset()` (R233): the host's reset, and the end of power-on. -/
def resetSequence (s : State) : State :=
  let s1 := (s.putF .i true).setS (s.cpu.s - 3)
  let s2 := s1.setPc (readVector resetVector s1)
  let s3 := ((s2.setNmi false).setIrq false).setStall 7
  (s3.setPpu (resetPpu s3.ppu)).setApu (resetApu s3.apu)

/-! ### The APU step -/

/-- After the reader's byte arrived: the buffer filled, the address advanced, and at the sample's end a restart or the
DMC IRQ (R217). The second component says whether an IRQ is requested. -/
def dmcTake (b : Byte) (d : Dmc) : Dmc × Bool :=
  let d1 := { d with buffer := b, bufferEmpty := false
                     curAddr := if d.curAddr = 0xFFFF then 0x8000 else d.curAddr + 1
                     bytesLeft := d.bytesLeft - 1 }
  if d1.bytesLeft = 0 then
    if d1.loop then (dmcRestart d1, false)
    else if d1.irqEn && !d1.dmcIrq then ({ d1 with dmcIrq := true }, true)
    else (d1, false)
  else (d1, false)

/-- `DmcReader()` (R217). -/
def dmcReader (s : State) : Access Unit :=
  if s.apu.dmc.bufferEmpty && s.apu.dmc.bytesLeft != 0 then
    (busRead s.apu.dmc.curAddr s).andThen fun b s' =>
      let t := dmcTake b s'.apu.dmc
      .ok () (((s'.addStall Config.dmcStall).setApu { s'.apu with dmc := t.1 }).requestIrqIf t.2)
  else .ok () s

/-- The frame sequencer on the state, with its IRQ request (R203, R218). -/
def frameSequencer (s : State) : State :=
  let q := frameSeqStep s.apu
  (s.setApu q.1).requestIrqIf q.2

/-- The end of an APU step: the step counted, the levels emitted (R202, R219). -/
def finishApuStep (s : State) : State :=
  let a := { s.apu with apuCycle := s.apu.apuCycle + 1 }
  (s.setApu a).setOut { s.out with levels := apuLevels a }

/-- `APUStep()` (R202). -/
def apuStep (s : State) : Access Unit :=
  let s1 := frameSequencer s
  let s2 := s1.setApu (channelTimers s1.apu)
  (dmcReader s2).andThen fun _ s3 => .ok () (finishApuStep s3)

end Sys2Proof.Machine
end

