-- ==== Sys2Proof/Machine/Operands.lean ====
section
/-! DEFINITION. The operand resolvers (30_encoding.md R71–R85) after their operand bytes have been fetched (log 11), and the
shapes an instruction has around its operand: reading it, storing to it, read-modify-write, implied, branch (R69, R70,
R86, R139). -/

namespace Sys2Proof.Machine

/-! ### Resolvers -/

/-- Where a resolved operand is: nowhere, in A, the immediate byte already fetched, or at an address (R70, R71). -/
inductive Place where
  | none
  | acc
  | value (b : Byte)
  | mem   (a : Addr)
  deriving DecidableEq, Repr

/-- What a resolver returns: the place and the page-crossing flag (R71). -/
structure Resolved where
  place   : Place
  crossed : Bool
  deriving DecidableEq, Repr

/-- The byte at a zero-page address; page 0 is RAM (R37, R38). -/
def zeroPageByte (b : Byte) (s : State) : Byte := ramByte (zext16 b) s

/-- The 16-bit pointer at a zero-page address, its high byte wrapping inside page 0 (R81, R82). -/
def zeroPagePointer (b : Byte) (s : State) : Addr := pair (zeroPageByte (b + 1) s) (zeroPageByte b s)

/-- `base + zext16(index)` with the page test (R79, R80, R82). -/
def indexed (base : Addr) (index : Byte) : Resolved :=
  let ea := base + zext16 index
  { place := .mem ea, crossed := pagesDiffer base ea }

/-- `PC + sext16(off)` with the page test against the next instruction (R83). -/
def branchTarget (pc : Addr) (off : Byte) : Addr := pc + sext16 off

/-- Every resolver but (absolute) indirect, which reads the bus (R84, `jmpIndirect`): those below read only operand bytes
and the zero page. -/
def resolve (m : Operand) (s : State) : Resolved :=
  match m with
  | .implied => { place := .none, crossed := false }
  | .acc => { place := .acc, crossed := false }
  | .imm b => { place := .value b, crossed := false }
  | .zp b => { place := .mem (zext16 b), crossed := false }
  | .zpX b => { place := .mem (zext16 (b + s.cpu.x)), crossed := false }
  | .zpY b => { place := .mem (zext16 (b + s.cpu.y)), crossed := false }
  | .abs a => { place := .mem a, crossed := false }
  | .absX a => indexed a s.cpu.x
  | .absY a => indexed a s.cpu.y
  | .indX b => { place := .mem (zeroPagePointer (b + s.cpu.x) s), crossed := false }
  | .indY b => indexed (zeroPagePointer b s) s.cpu.y
  | .rel off => { place := .mem (branchTarget s.cpu.pc off), crossed := pagesDiffer s.cpu.pc (branchTarget s.cpu.pc off) }
  | .ind a => { place := .mem a, crossed := false }
  | .jump a => { place := .mem a, crossed := false }

/-- `Load()` (R70). An implied operand has no byte; no instruction loads one. -/
def loadPlace (p : Place) (s : State) : Access Byte :=
  match p with
  | .none => .ok 0 s
  | .acc => .ok s.cpu.a s
  | .value b => .ok b s
  | .mem a => busRead a s

/-- `Store(v)` (R70). -/
def storePlace (p : Place) (v : Byte) (s : State) : Access Unit :=
  match p with
  | .none => .ok () s
  | .acc => .ok () (s.setA v)
  | .value _ => .ok () s
  | .mem a => busWrite a v s

/-! ### Instruction shapes -/

/-- A read instruction: the operand loaded once, `use` applied to it; a page crossing costs one cycle (R86). -/
def readInstr (m : Operand) (base : Nat) (use : Byte → State → State) (s : State) : Result :=
  complete base ((loadPlace (resolve m s).place s).andThen fun v s' => .ok (resolve m s).crossed.toNat (use v s'))

/-- A store instruction: the byte written once; no page penalty (R86). -/
def writeInstr (m : Operand) (base : Nat) (v : Byte) (s : State) : Result :=
  complete base ((storePlace (resolve m s).place v s).andThen fun _ s' => .ok 0 s')

/-- A read-modify-write instruction (R60): one read, the carry where it is computed, one write of the result to the same
place, then Z and N; no page penalty. -/
def rmwInstr (m : Operand) (base : Nat) (f : Byte → Bool → RmwOut) (s : State) : Result :=
  complete base <|
    (loadPlace (resolve m s).place s).andThen fun v s1 =>
      let o := f v (getFlag .c s1.cpu.p)
      (storePlace (resolve m s).place o.value (s1.setP (rmwCarry o s1.cpu.p))).andThen fun _ s2 =>
        .ok 0 (s2.setZN o.value)

/-- An instruction without an operand access: `f` applied, `base` cycles. -/
def impliedInstr (base : Nat) (f : State → State) (s : State) : Result := complete base (.ok 0 (f s))

/-- A branch on `cond` (R139): taken costs one cycle, and one more across a page. -/
def branchInstr (cond : Bool) (off : Byte) (s : State) : Result :=
  let target := branchTarget s.cpu.pc off
  if cond then complete 2 (.ok (1 + (pagesDiffer s.cpu.pc target).toNat) (s.setPc target))
  else complete 2 (.ok 0 s)

/-- The address of the target's high byte: the pointer's page is kept when its low byte wraps (R84). -/
def wrapPointer (ptr : Addr) : Addr := pair (highByte ptr) (lowByte ptr + 1)

/-- JMP (absolute): the target is read through the bus, low byte first (R84, R136). -/
def jmpIndirect (ptr : Addr) (s : State) : Result :=
  complete 5 <|
    (busRead ptr s).andThen fun lo s1 =>
      (busRead (wrapPointer ptr) s1).andThen fun hi s2 => .ok 0 (s2.setPc (pair hi lo))

end Sys2Proof.Machine
end

