-- ==== Sys2Proof/Machine/Arith.lean ====
section
/-! DEFINITION. The meanings of 42_arithmetic_logic.md R112–R122: ADC SBC AND ORA EOR BIT CMP CPX CPY. Each has its own definition over a shared
shape of Operands.lean; the number is the base cycle count of R88. The state is the one after the instruction's bytes
were fetched. -/

namespace Sys2Proof.Machine

/-- ADC on its loaded operand: A, C, V, Z and N (R114). D has no part in it (R112). -/
def adcStep (m : Byte) (s : State) : State :=
  let o := adcOf s.cpu.a m (getFlag .c s.cpu.p)
  (s.setA o.value).setP (aluStatus o s.cpu.p)

/-- SBC on its loaded operand (R115). -/
def sbcStep (m : Byte) (s : State) : State :=
  let o := sbcOf s.cpu.a m (getFlag .c s.cpu.p)
  (s.setA o.value).setP (aluStatus o s.cpu.p)

/-- AND (R116), ORA (R117), EOR (R118). -/
def andStep (m : Byte) (s : State) : State := loadRegister State.setA (s.cpu.a &&& m) s
def oraStep (m : Byte) (s : State) : State := loadRegister State.setA (s.cpu.a ||| m) s
def eorStep (m : Byte) (s : State) : State := loadRegister State.setA (s.cpu.a ^^^ m) s

/-- BIT (R119): only Z, N and V. -/
def bitStep (m : Byte) (s : State) : State := s.setP (bitStatus s.cpu.a m s.cpu.p)

/-- CMP (R120), CPX (R121), CPY (R122): only C, Z and N. -/
def cmpStep (m : Byte) (s : State) : State := s.setP (compareStatus s.cpu.a m s.cpu.p)
def cpxStep (m : Byte) (s : State) : State := s.setP (compareStatus s.cpu.x m s.cpu.p)
def cpyStep (m : Byte) (s : State) : State := s.setP (compareStatus s.cpu.y m s.cpu.p)

-- ADC, R114
/-- `ADC ($nn,X)`, 0x61. -/
def execAdcIndX (b : Byte) (s : State) : Result := readInstr (.indX b) 6 adcStep s
/-- `ADC $nn`, 0x65. -/
def execAdcZp (b : Byte) (s : State) : Result := readInstr (.zp b) 3 adcStep s
/-- `ADC #$nn`, 0x69. -/
def execAdcImm (b : Byte) (s : State) : Result := readInstr (.imm b) 2 adcStep s
/-- `ADC $hhll`, 0x6D. -/
def execAdcAbs (a : Addr) (s : State) : Result := readInstr (.abs a) 4 adcStep s
/-- `ADC ($nn),Y`, 0x71. -/
def execAdcIndY (b : Byte) (s : State) : Result := readInstr (.indY b) 5 adcStep s
/-- `ADC $nn,X`, 0x75. -/
def execAdcZpX (b : Byte) (s : State) : Result := readInstr (.zpX b) 4 adcStep s
/-- `ADC $hhll,Y`, 0x79. -/
def execAdcAbsY (a : Addr) (s : State) : Result := readInstr (.absY a) 4 adcStep s
/-- `ADC $hhll,X`, 0x7D. -/
def execAdcAbsX (a : Addr) (s : State) : Result := readInstr (.absX a) 4 adcStep s

-- SBC, R115
/-- `SBC ($nn,X)`, 0xE1. -/
def execSbcIndX (b : Byte) (s : State) : Result := readInstr (.indX b) 6 sbcStep s
/-- `SBC $nn`, 0xE5. -/
def execSbcZp (b : Byte) (s : State) : Result := readInstr (.zp b) 3 sbcStep s
/-- `SBC #$nn`, 0xE9. -/
def execSbcImm (b : Byte) (s : State) : Result := readInstr (.imm b) 2 sbcStep s
/-- `SBC $hhll`, 0xED. -/
def execSbcAbs (a : Addr) (s : State) : Result := readInstr (.abs a) 4 sbcStep s
/-- `SBC ($nn),Y`, 0xF1. -/
def execSbcIndY (b : Byte) (s : State) : Result := readInstr (.indY b) 5 sbcStep s
/-- `SBC $nn,X`, 0xF5. -/
def execSbcZpX (b : Byte) (s : State) : Result := readInstr (.zpX b) 4 sbcStep s
/-- `SBC $hhll,Y`, 0xF9. -/
def execSbcAbsY (a : Addr) (s : State) : Result := readInstr (.absY a) 4 sbcStep s
/-- `SBC $hhll,X`, 0xFD. -/
def execSbcAbsX (a : Addr) (s : State) : Result := readInstr (.absX a) 4 sbcStep s

-- AND, R116
/-- `AND ($nn,X)`, 0x21. -/
def execAndIndX (b : Byte) (s : State) : Result := readInstr (.indX b) 6 andStep s
/-- `AND $nn`, 0x25. -/
def execAndZp (b : Byte) (s : State) : Result := readInstr (.zp b) 3 andStep s
/-- `AND #$nn`, 0x29. -/
def execAndImm (b : Byte) (s : State) : Result := readInstr (.imm b) 2 andStep s
/-- `AND $hhll`, 0x2D. -/
def execAndAbs (a : Addr) (s : State) : Result := readInstr (.abs a) 4 andStep s
/-- `AND ($nn),Y`, 0x31. -/
def execAndIndY (b : Byte) (s : State) : Result := readInstr (.indY b) 5 andStep s
/-- `AND $nn,X`, 0x35. -/
def execAndZpX (b : Byte) (s : State) : Result := readInstr (.zpX b) 4 andStep s
/-- `AND $hhll,Y`, 0x39. -/
def execAndAbsY (a : Addr) (s : State) : Result := readInstr (.absY a) 4 andStep s
/-- `AND $hhll,X`, 0x3D. -/
def execAndAbsX (a : Addr) (s : State) : Result := readInstr (.absX a) 4 andStep s

-- ORA, R117
/-- `ORA ($nn,X)`, 0x01. -/
def execOraIndX (b : Byte) (s : State) : Result := readInstr (.indX b) 6 oraStep s
/-- `ORA $nn`, 0x05. -/
def execOraZp (b : Byte) (s : State) : Result := readInstr (.zp b) 3 oraStep s
/-- `ORA #$nn`, 0x09. -/
def execOraImm (b : Byte) (s : State) : Result := readInstr (.imm b) 2 oraStep s
/-- `ORA $hhll`, 0x0D. -/
def execOraAbs (a : Addr) (s : State) : Result := readInstr (.abs a) 4 oraStep s
/-- `ORA ($nn),Y`, 0x11. -/
def execOraIndY (b : Byte) (s : State) : Result := readInstr (.indY b) 5 oraStep s
/-- `ORA $nn,X`, 0x15. -/
def execOraZpX (b : Byte) (s : State) : Result := readInstr (.zpX b) 4 oraStep s
/-- `ORA $hhll,Y`, 0x19. -/
def execOraAbsY (a : Addr) (s : State) : Result := readInstr (.absY a) 4 oraStep s
/-- `ORA $hhll,X`, 0x1D. -/
def execOraAbsX (a : Addr) (s : State) : Result := readInstr (.absX a) 4 oraStep s

-- EOR, R118
/-- `EOR ($nn,X)`, 0x41. -/
def execEorIndX (b : Byte) (s : State) : Result := readInstr (.indX b) 6 eorStep s
/-- `EOR $nn`, 0x45. -/
def execEorZp (b : Byte) (s : State) : Result := readInstr (.zp b) 3 eorStep s
/-- `EOR #$nn`, 0x49. -/
def execEorImm (b : Byte) (s : State) : Result := readInstr (.imm b) 2 eorStep s
/-- `EOR $hhll`, 0x4D. -/
def execEorAbs (a : Addr) (s : State) : Result := readInstr (.abs a) 4 eorStep s
/-- `EOR ($nn),Y`, 0x51. -/
def execEorIndY (b : Byte) (s : State) : Result := readInstr (.indY b) 5 eorStep s
/-- `EOR $nn,X`, 0x55. -/
def execEorZpX (b : Byte) (s : State) : Result := readInstr (.zpX b) 4 eorStep s
/-- `EOR $hhll,Y`, 0x59. -/
def execEorAbsY (a : Addr) (s : State) : Result := readInstr (.absY a) 4 eorStep s
/-- `EOR $hhll,X`, 0x5D. -/
def execEorAbsX (a : Addr) (s : State) : Result := readInstr (.absX a) 4 eorStep s

-- BIT, R119
/-- `BIT $nn`, 0x24. -/
def execBitZp (b : Byte) (s : State) : Result := readInstr (.zp b) 3 bitStep s
/-- `BIT $hhll`, 0x2C. -/
def execBitAbs (a : Addr) (s : State) : Result := readInstr (.abs a) 4 bitStep s

-- CMP, R120
/-- `CMP ($nn,X)`, 0xC1. -/
def execCmpIndX (b : Byte) (s : State) : Result := readInstr (.indX b) 6 cmpStep s
/-- `CMP $nn`, 0xC5. -/
def execCmpZp (b : Byte) (s : State) : Result := readInstr (.zp b) 3 cmpStep s
/-- `CMP #$nn`, 0xC9. -/
def execCmpImm (b : Byte) (s : State) : Result := readInstr (.imm b) 2 cmpStep s
/-- `CMP $hhll`, 0xCD. -/
def execCmpAbs (a : Addr) (s : State) : Result := readInstr (.abs a) 4 cmpStep s
/-- `CMP ($nn),Y`, 0xD1. -/
def execCmpIndY (b : Byte) (s : State) : Result := readInstr (.indY b) 5 cmpStep s
/-- `CMP $nn,X`, 0xD5. -/
def execCmpZpX (b : Byte) (s : State) : Result := readInstr (.zpX b) 4 cmpStep s
/-- `CMP $hhll,Y`, 0xD9. -/
def execCmpAbsY (a : Addr) (s : State) : Result := readInstr (.absY a) 4 cmpStep s
/-- `CMP $hhll,X`, 0xDD. -/
def execCmpAbsX (a : Addr) (s : State) : Result := readInstr (.absX a) 4 cmpStep s

-- CPX, R121
/-- `CPX #$nn`, 0xE0. -/
def execCpxImm (b : Byte) (s : State) : Result := readInstr (.imm b) 2 cpxStep s
/-- `CPX $nn`, 0xE4. -/
def execCpxZp (b : Byte) (s : State) : Result := readInstr (.zp b) 3 cpxStep s
/-- `CPX $hhll`, 0xEC. -/
def execCpxAbs (a : Addr) (s : State) : Result := readInstr (.abs a) 4 cpxStep s

-- CPY, R122
/-- `CPY #$nn`, 0xC0. -/
def execCpyImm (b : Byte) (s : State) : Result := readInstr (.imm b) 2 cpyStep s
/-- `CPY $nn`, 0xC4. -/
def execCpyZp (b : Byte) (s : State) : Result := readInstr (.zp b) 3 cpyStep s
/-- `CPY $hhll`, 0xCC. -/
def execCpyAbs (a : Addr) (s : State) : Result := readInstr (.abs a) 4 cpyStep s

end Sys2Proof.Machine
end

