-- ==== Sys2Proof/Machine/Control.lean ====
section
/-! DEFINITION. The meanings of 45_control_transfer.md R135–R147: JMP JSR RTS and the eight branches. PC already points past the instruction. Each has its own definition over a shared
shape of Operands.lean; the number is the base cycle count of R88. The state is the one after the instruction's bytes
were fetched. -/

namespace Sys2Proof.Machine

-- JMP, R136
/-- `JMP $hhll`, 0x4C. -/
def execJmpAbs (a : Addr) (s : State) : Result := impliedInstr 3 (State.setPc a) s
/-- `JMP ($hhll)`, 0x6C. -/
def execJmpInd (a : Addr) (s : State) : Result := jmpIndirect a s

-- JSR, R137
/-- `JSR $hhll`, 0x20. -/
def execJsr (a : Addr) (s : State) : Result := impliedInstr 6 (fun s => (pushAddr (s.cpu.pc - 1) s).setPc a) s

-- RTS, R138
/-- `RTS`, 0x60. -/
def execRts (s : State) : Result := impliedInstr 6 (fun s => (afterPullAddr s).setPc (pulledAddr s + 1)) s

-- BCC, R140
/-- `BCC label`, 0x90. -/
def execBcc (off : Byte) (s : State) : Result := branchInstr (!getFlag .c s.cpu.p) off s

-- BCS, R141
/-- `BCS label`, 0xB0. -/
def execBcs (off : Byte) (s : State) : Result := branchInstr (getFlag .c s.cpu.p) off s

-- BEQ, R142
/-- `BEQ label`, 0xF0. -/
def execBeq (off : Byte) (s : State) : Result := branchInstr (getFlag .z s.cpu.p) off s

-- BNE, R143
/-- `BNE label`, 0xD0. -/
def execBne (off : Byte) (s : State) : Result := branchInstr (!getFlag .z s.cpu.p) off s

-- BMI, R144
/-- `BMI label`, 0x30. -/
def execBmi (off : Byte) (s : State) : Result := branchInstr (getFlag .n s.cpu.p) off s

-- BPL, R145
/-- `BPL label`, 0x10. -/
def execBpl (off : Byte) (s : State) : Result := branchInstr (!getFlag .n s.cpu.p) off s

-- BVC, R146
/-- `BVC label`, 0x50. -/
def execBvc (off : Byte) (s : State) : Result := branchInstr (!getFlag .v s.cpu.p) off s

-- BVS, R147
/-- `BVS label`, 0x70. -/
def execBvs (off : Byte) (s : State) : Result := branchInstr (getFlag .v s.cpu.p) off s

end Sys2Proof.Machine
end

