-- ==== Sys2Proof/Machine/IncDec.lean ====
section
/-! DEFINITION. The meanings of 43_inc_dec.md R123–R129: INC DEC INX INY DEX DEY. Each has its own definition over a shared
shape of Operands.lean; the number is the base cycle count of R88. The state is the one after the instruction's bytes
were fetched. -/

namespace Sys2Proof.Machine

-- INC, R124
/-- `INC $nn`, 0xE6. -/
def execIncZp (b : Byte) (s : State) : Result := rmwInstr (.zp b) 5 incOf s
/-- `INC $hhll`, 0xEE. -/
def execIncAbs (a : Addr) (s : State) : Result := rmwInstr (.abs a) 6 incOf s
/-- `INC $nn,X`, 0xF6. -/
def execIncZpX (b : Byte) (s : State) : Result := rmwInstr (.zpX b) 6 incOf s
/-- `INC $hhll,X`, 0xFE. -/
def execIncAbsX (a : Addr) (s : State) : Result := rmwInstr (.absX a) 7 incOf s

-- DEC, R125
/-- `DEC $nn`, 0xC6. -/
def execDecZp (b : Byte) (s : State) : Result := rmwInstr (.zp b) 5 decOf s
/-- `DEC $hhll`, 0xCE. -/
def execDecAbs (a : Addr) (s : State) : Result := rmwInstr (.abs a) 6 decOf s
/-- `DEC $nn,X`, 0xD6. -/
def execDecZpX (b : Byte) (s : State) : Result := rmwInstr (.zpX b) 6 decOf s
/-- `DEC $hhll,X`, 0xDE. -/
def execDecAbsX (a : Addr) (s : State) : Result := rmwInstr (.absX a) 7 decOf s

-- INX, R126
/-- `INX`, 0xE8. -/
def execInx (s : State) : Result := impliedInstr 2 (fun s => loadRegister State.setX (s.cpu.x + 1) s) s

-- INY, R127
/-- `INY`, 0xC8. -/
def execIny (s : State) : Result := impliedInstr 2 (fun s => loadRegister State.setY (s.cpu.y + 1) s) s

-- DEX, R128
/-- `DEX`, 0xCA. -/
def execDex (s : State) : Result := impliedInstr 2 (fun s => loadRegister State.setX (s.cpu.x - 1) s) s

-- DEY, R129
/-- `DEY`, 0x88. -/
def execDey (s : State) : Result := impliedInstr 2 (fun s => loadRegister State.setY (s.cpu.y - 1) s) s

end Sys2Proof.Machine
end

