-- ==== Sys2Proof/Machine/LoadStore.lean ====
section
/-! DEFINITION. The meanings of 40_load_store.md R94–R100: LDA LDX LDY STA STX STY. Each has its own definition over a shared
shape of Operands.lean; the number is the base cycle count of R88. The state is the one after the instruction's bytes
were fetched. -/

namespace Sys2Proof.Machine

-- LDA, R95
/-- `LDA ($nn,X)`, 0xA1. -/
def execLdaIndX (b : Byte) (s : State) : Result := readInstr (.indX b) 6 (loadRegister State.setA) s
/-- `LDA $nn`, 0xA5. -/
def execLdaZp (b : Byte) (s : State) : Result := readInstr (.zp b) 3 (loadRegister State.setA) s
/-- `LDA #$nn`, 0xA9. -/
def execLdaImm (b : Byte) (s : State) : Result := readInstr (.imm b) 2 (loadRegister State.setA) s
/-- `LDA $hhll`, 0xAD. -/
def execLdaAbs (a : Addr) (s : State) : Result := readInstr (.abs a) 4 (loadRegister State.setA) s
/-- `LDA ($nn),Y`, 0xB1. -/
def execLdaIndY (b : Byte) (s : State) : Result := readInstr (.indY b) 5 (loadRegister State.setA) s
/-- `LDA $nn,X`, 0xB5. -/
def execLdaZpX (b : Byte) (s : State) : Result := readInstr (.zpX b) 4 (loadRegister State.setA) s
/-- `LDA $hhll,Y`, 0xB9. -/
def execLdaAbsY (a : Addr) (s : State) : Result := readInstr (.absY a) 4 (loadRegister State.setA) s
/-- `LDA $hhll,X`, 0xBD. -/
def execLdaAbsX (a : Addr) (s : State) : Result := readInstr (.absX a) 4 (loadRegister State.setA) s

-- LDX, R96
/-- `LDX #$nn`, 0xA2. -/
def execLdxImm (b : Byte) (s : State) : Result := readInstr (.imm b) 2 (loadRegister State.setX) s
/-- `LDX $nn`, 0xA6. -/
def execLdxZp (b : Byte) (s : State) : Result := readInstr (.zp b) 3 (loadRegister State.setX) s
/-- `LDX $hhll`, 0xAE. -/
def execLdxAbs (a : Addr) (s : State) : Result := readInstr (.abs a) 4 (loadRegister State.setX) s
/-- `LDX $nn,Y`, 0xB6. -/
def execLdxZpY (b : Byte) (s : State) : Result := readInstr (.zpY b) 4 (loadRegister State.setX) s
/-- `LDX $hhll,Y`, 0xBE. -/
def execLdxAbsY (a : Addr) (s : State) : Result := readInstr (.absY a) 4 (loadRegister State.setX) s

-- LDY, R97
/-- `LDY #$nn`, 0xA0. -/
def execLdyImm (b : Byte) (s : State) : Result := readInstr (.imm b) 2 (loadRegister State.setY) s
/-- `LDY $nn`, 0xA4. -/
def execLdyZp (b : Byte) (s : State) : Result := readInstr (.zp b) 3 (loadRegister State.setY) s
/-- `LDY $hhll`, 0xAC. -/
def execLdyAbs (a : Addr) (s : State) : Result := readInstr (.abs a) 4 (loadRegister State.setY) s
/-- `LDY $nn,X`, 0xB4. -/
def execLdyZpX (b : Byte) (s : State) : Result := readInstr (.zpX b) 4 (loadRegister State.setY) s
/-- `LDY $hhll,X`, 0xBC. -/
def execLdyAbsX (a : Addr) (s : State) : Result := readInstr (.absX a) 4 (loadRegister State.setY) s

-- STA, R98
/-- `STA ($nn,X)`, 0x81. -/
def execStaIndX (b : Byte) (s : State) : Result := writeInstr (.indX b) 6 s.cpu.a s
/-- `STA $nn`, 0x85. -/
def execStaZp (b : Byte) (s : State) : Result := writeInstr (.zp b) 3 s.cpu.a s
/-- `STA $hhll`, 0x8D. -/
def execStaAbs (a : Addr) (s : State) : Result := writeInstr (.abs a) 4 s.cpu.a s
/-- `STA ($nn),Y`, 0x91. -/
def execStaIndY (b : Byte) (s : State) : Result := writeInstr (.indY b) 6 s.cpu.a s
/-- `STA $nn,X`, 0x95. -/
def execStaZpX (b : Byte) (s : State) : Result := writeInstr (.zpX b) 4 s.cpu.a s
/-- `STA $hhll,Y`, 0x99. -/
def execStaAbsY (a : Addr) (s : State) : Result := writeInstr (.absY a) 5 s.cpu.a s
/-- `STA $hhll,X`, 0x9D. -/
def execStaAbsX (a : Addr) (s : State) : Result := writeInstr (.absX a) 5 s.cpu.a s

-- STX, R99
/-- `STX $nn`, 0x86. -/
def execStxZp (b : Byte) (s : State) : Result := writeInstr (.zp b) 3 s.cpu.x s
/-- `STX $hhll`, 0x8E. -/
def execStxAbs (a : Addr) (s : State) : Result := writeInstr (.abs a) 4 s.cpu.x s
/-- `STX $nn,Y`, 0x96. -/
def execStxZpY (b : Byte) (s : State) : Result := writeInstr (.zpY b) 4 s.cpu.x s

-- STY, R100
/-- `STY $nn`, 0x84. -/
def execStyZp (b : Byte) (s : State) : Result := writeInstr (.zp b) 3 s.cpu.y s
/-- `STY $hhll`, 0x8C. -/
def execStyAbs (a : Addr) (s : State) : Result := writeInstr (.abs a) 4 s.cpu.y s
/-- `STY $nn,X`, 0x94. -/
def execStyZpX (b : Byte) (s : State) : Result := writeInstr (.zpX b) 4 s.cpu.y s

end Sys2Proof.Machine
end

