-- ==== Sys2Proof/Machine/Shift.lean ====
section
/-! DEFINITION. The meanings of 44_shift_rotate.md R130–R134: ASL LSR ROL ROR, on A and on memory. Each has its own definition over a shared
shape of Operands.lean; the number is the base cycle count of R88. The state is the one after the instruction's bytes
were fetched. -/

namespace Sys2Proof.Machine

-- ASL, R131
/-- `ASL $nn`, 0x06. -/
def execAslZp (b : Byte) (s : State) : Result := rmwInstr (.zp b) 5 aslOf s
/-- `ASL A`, 0x0A. -/
def execAslAcc (s : State) : Result := rmwInstr .acc 2 aslOf s
/-- `ASL $hhll`, 0x0E. -/
def execAslAbs (a : Addr) (s : State) : Result := rmwInstr (.abs a) 6 aslOf s
/-- `ASL $nn,X`, 0x16. -/
def execAslZpX (b : Byte) (s : State) : Result := rmwInstr (.zpX b) 6 aslOf s
/-- `ASL $hhll,X`, 0x1E. -/
def execAslAbsX (a : Addr) (s : State) : Result := rmwInstr (.absX a) 7 aslOf s

-- LSR, R132
/-- `LSR $nn`, 0x46. -/
def execLsrZp (b : Byte) (s : State) : Result := rmwInstr (.zp b) 5 lsrOf s
/-- `LSR A`, 0x4A. -/
def execLsrAcc (s : State) : Result := rmwInstr .acc 2 lsrOf s
/-- `LSR $hhll`, 0x4E. -/
def execLsrAbs (a : Addr) (s : State) : Result := rmwInstr (.abs a) 6 lsrOf s
/-- `LSR $nn,X`, 0x56. -/
def execLsrZpX (b : Byte) (s : State) : Result := rmwInstr (.zpX b) 6 lsrOf s
/-- `LSR $hhll,X`, 0x5E. -/
def execLsrAbsX (a : Addr) (s : State) : Result := rmwInstr (.absX a) 7 lsrOf s

-- ROL, R133
/-- `ROL $nn`, 0x26. -/
def execRolZp (b : Byte) (s : State) : Result := rmwInstr (.zp b) 5 rolOf s
/-- `ROL A`, 0x2A. -/
def execRolAcc (s : State) : Result := rmwInstr .acc 2 rolOf s
/-- `ROL $hhll`, 0x2E. -/
def execRolAbs (a : Addr) (s : State) : Result := rmwInstr (.abs a) 6 rolOf s
/-- `ROL $nn,X`, 0x36. -/
def execRolZpX (b : Byte) (s : State) : Result := rmwInstr (.zpX b) 6 rolOf s
/-- `ROL $hhll,X`, 0x3E. -/
def execRolAbsX (a : Addr) (s : State) : Result := rmwInstr (.absX a) 7 rolOf s

-- ROR, R134
/-- `ROR $nn`, 0x66. -/
def execRorZp (b : Byte) (s : State) : Result := rmwInstr (.zp b) 5 rorOf s
/-- `ROR A`, 0x6A. -/
def execRorAcc (s : State) : Result := rmwInstr .acc 2 rorOf s
/-- `ROR $hhll`, 0x6E. -/
def execRorAbs (a : Addr) (s : State) : Result := rmwInstr (.abs a) 6 rorOf s
/-- `ROR $nn,X`, 0x76. -/
def execRorZpX (b : Byte) (s : State) : Result := rmwInstr (.zpX b) 6 rorOf s
/-- `ROR $hhll,X`, 0x7E. -/
def execRorAbsX (a : Addr) (s : State) : Result := rmwInstr (.absX a) 7 rorOf s

end Sys2Proof.Machine
end

