-- ==== Sys2Proof/Machine/System.lean ====
section
/-! DEFINITION. The meanings of 46_system_flags.md R148–R158: BRK RTI NOP and the flag instructions. Each has its own definition over a shared
shape of Operands.lean; the number is the base cycle count of R88. The state is the one after the instruction's bytes
were fetched. -/

namespace Sys2Proof.Machine

-- BRK, R149
/-- `BRK`, 0x00. -/
def execBrk (s : State) : Result := impliedInstr 7 (fun s => enterInterrupt irqVector (s.setPc (s.cpu.pc + 1))) s

-- RTI, R150
/-- `RTI`, 0x40. -/
def execRti (s : State) : Result := impliedInstr 6 returnFromInterrupt s

-- NOP, R151
/-- `NOP`, 0xEA. -/
def execNop (s : State) : Result := impliedInstr 2 (fun s => s) s

-- CLC, R152
/-- `CLC`, 0x18. -/
def execClc (s : State) : Result := impliedInstr 2 (State.putF .c false) s

-- SEC, R153
/-- `SEC`, 0x38. -/
def execSec (s : State) : Result := impliedInstr 2 (State.putF .c true) s

-- CLI, R154
/-- `CLI`, 0x58. -/
def execCli (s : State) : Result := impliedInstr 2 (State.putF .i false) s

-- SEI, R155
/-- `SEI`, 0x78. -/
def execSei (s : State) : Result := impliedInstr 2 (State.putF .i true) s

-- CLD, R156
/-- `CLD`, 0xD8. -/
def execCld (s : State) : Result := impliedInstr 2 (State.putF .d false) s

-- SED, R157
/-- `SED`, 0xF8. -/
def execSed (s : State) : Result := impliedInstr 2 (State.putF .d true) s

-- CLV, R158
/-- `CLV`, 0xB8. -/
def execClv (s : State) : Result := impliedInstr 2 (State.putF .v false) s

end Sys2Proof.Machine
end

