-- ==== Sys2Proof/Machine/TransferStack.lean ====
section
/-! DEFINITION. The meanings of 41_transfer_stack.md R101–R111: TAX TAY TXA TYA TSX TXS PHA PHP PLA PLP. Each has its own definition over a shared
shape of Operands.lean; the number is the base cycle count of R88. The state is the one after the instruction's bytes
were fetched. -/

namespace Sys2Proof.Machine

-- TAX, R102
/-- `TAX`, 0xAA. -/
def execTax (s : State) : Result := impliedInstr 2 (fun s => loadRegister State.setX s.cpu.a s) s

-- TAY, R103
/-- `TAY`, 0xA8. -/
def execTay (s : State) : Result := impliedInstr 2 (fun s => loadRegister State.setY s.cpu.a s) s

-- TXA, R104
/-- `TXA`, 0x8A. -/
def execTxa (s : State) : Result := impliedInstr 2 (fun s => loadRegister State.setA s.cpu.x s) s

-- TYA, R105
/-- `TYA`, 0x98. -/
def execTya (s : State) : Result := impliedInstr 2 (fun s => loadRegister State.setA s.cpu.y s) s

-- TSX, R106
/-- `TSX`, 0xBA. -/
def execTsx (s : State) : Result := impliedInstr 2 (fun s => loadRegister State.setX s.cpu.s s) s

-- TXS, R107
/-- `TXS`, 0x9A. -/
def execTxs (s : State) : Result := impliedInstr 2 (fun s => s.setS s.cpu.x) s

-- PHA, R108
/-- `PHA`, 0x48. -/
def execPha (s : State) : Result := impliedInstr 3 (fun s => push s.cpu.a s) s

-- PHP, R109
/-- `PHP`, 0x08. -/
def execPhp (s : State) : Result := impliedInstr 3 (fun s => push (phpByte s.cpu.p) s) s

-- PLA, R110
/-- `PLA`, 0x68. -/
def execPla (s : State) : Result := impliedInstr 4 (fun s => loadRegister State.setA (pulled s) (afterPull s)) s

-- PLP, R111
/-- `PLP`, 0x28. -/
def execPlp (s : State) : Result := impliedInstr 4 (fun s => (afterPull s).setP (pulledStatus (pulled s))) s

end Sys2Proof.Machine
end

