-- ==== Sys2Proof/Machine/Fetch.lean ====
section
/-! DEFINITION. Fetching an instruction through the bus (30_encoding.md R67–R69, R90), and placing an instruction's bytes
where the fetch reads them. -/

namespace Sys2Proof.Machine

/-- The opcode fetch and the fetch of the operand bytes, in address order, PC moving as R69 and R74–R85 say: past the
opcode before its table entry is looked at; past an immediate byte before that byte is read; past other operand bytes after. -/
def fetch (s : State) : Access Instr :=
  let opAddr := s.cpu.pc
  (busRead opAddr s).andThen fun op s1 =>
    let s2 := s1.setPc (opAddr + 1)
    match opForm op with
    | none => .stop (.invalidOpcode op opAddr) s2
    | some (.none i) => .ok i s2
    | some (.immediate mk) => (busRead (opAddr + 1) (s2.setPc (opAddr + 2))).andThen fun b s3 => .ok (mk b) s3
    | some (.byte mk) => (busRead (opAddr + 1) s2).andThen fun b s3 => .ok (mk b) (s3.setPc (opAddr + 2))
    | some (.word mk) =>
      (busRead (opAddr + 1) s2).andThen fun lo s3 =>
        (busRead (opAddr + 2) s3).andThen fun hi s4 => .ok (mk (pair hi lo)) (s4.setPc (opAddr + 3))

/-- Addresses whose byte is storage (RAM, PRG RAM, PRG ROM), so that a fetch there reads what was placed. -/
def placeable (a : Addr) : Bool := decide (a.toNat < 0x2000) || decide (0x6000 ≤ a.toNat)

/-- Places a byte in storage from outside the machine: the load of a program, not a bus write (log 9). -/
def placeByte (a : Addr) (v : Byte) (s : State) : State :=
  if a.toNat < 0x2000 then writeRam a v s
  else if a.toNat < 0x6000 then s
  else if a.toNat < 0x8000 then s.setPrgRam (Memory.write s.prgRam (prgRamIndex a) v)
  else s.setCart { s.cart with prg := Memory.write s.cart.prg (s.cart.prgIndex a) v }

/-- Bytes placed at rising addresses from `a` on. -/
def placeBytes (a : Addr) : List Byte → State → State
  | [], s => s
  | b :: rest, s => placeBytes (a + 1) rest (placeByte a b s)

/-- The next tick is a boundary at which the next instruction runs: no stall, no request, no fault. -/
def atBoundary (s : State) : State := (((s.setStall 0).setNmi false).setIrq false).setFault none

/-- Where a program is placed when PC itself points at no storage: RAM page 2. -/
def fetchHome : Addr := 0x0200

/-- PC, if three bytes can be placed there, and `fetchHome` otherwise. -/
def fetchAddr (s : State) : Addr :=
  if placeable s.cpu.pc && placeable (s.cpu.pc + 1) && placeable (s.cpu.pc + 2) then s.cpu.pc else fetchHome

end Sys2Proof.Machine
end

