-- ==== Sys2Proof/Machine/Tick.lean ====
section
/-! DEFINITION. One CPU cycle of the system: ExecuteOne (30_encoding.md R69), the boundary logic (60_exceptions.md R164),
the CPU tick and the system tick (70_reset_and_hazards.md R229, R230). -/

namespace Sys2Proof.Machine

/-- `ExecuteOne()` (R69): fetch, then the instruction's meaning. A faulting fetch ends in the faulted state (R160). -/
def executeOne (s : State) : Result :=
  match fetch s with
  | .ok i s' => exec i s'
  | .stop r s' => .next (raiseFault r s')

/-- An NMI or IRQ entry: 7 cycles, this tick and 6 more (R164, R165). -/
def takeInterrupt (vector : Addr) (s : State) : State := (enterInterrupt vector s).setStall 6

/-- `Boundary()` (R164): NMI first; an IRQ is taken if I = 0 and otherwise discarded; then the next instruction. -/
def boundary (s : State) : Result :=
  if s.cpu.nmiPending then .next (takeInterrupt nmiVector (s.setNmi false))
  else if s.cpu.irqPending then
    if getFlag .i s.cpu.p then executeOne (s.setIrq false)
    else .next (takeInterrupt irqVector (s.setIrq false))
  else executeOne s

/-- `CPUTick()` (R230). -/
def cpuTick (s : State) : Result := if s.cpu.stall = 0 then boundary s else .next (s.setStall (s.cpu.stall - 1))

/-- The tick after the CPU: three PPU steps, the APU step, the cycle count (R229). A fault in the APU's memory reader
ends the tick (R160). -/
def finishTick (s : State) : State :=
  match apuStep (ppuStep (ppuStep (ppuStep s))) with
  | .ok _ s' => s'.setCycle (s'.cpu.cycle + 1)
  | .stop r s' => raiseFault r s'

/-- What follows a CPU tick that raised no fault; a fault abandons the rest of the tick (R160, R229). -/
def afterCpuTick (s : State) : State := if s.cpu.fault.isSome then s else finishTick s

/-- `SystemTick()` (R229) from a state without a fault. -/
def systemTick (s : State) : Result :=
  match cpuTick s with
  | .next s' => .next (afterCpuTick s')
  | .fault r => .fault r
  | .refused r => .refused r

end Sys2Proof.Machine
end

