-- ==== Sys2Proof/Machine/Step.lean ====
section
/-! DEFINITION. The step of the machine, one system tick; and an instruction word placed where the next step fetches it. -/

namespace Sys2Proof.Machine

/-- One step: a faulted machine stays halted with its record (R160, R229); otherwise one system tick. -/
def step (s : State) : Host.Outcome State Fault Refusal :=
  match s.cpu.fault with
  | some r => .fault r
  | none => systemTick s

/-- The state whose very next step fetches and runs the instruction word `w` (log 9): its three bytes stand at PC (or at
`fetchHome` where PC points at no storage), and the CPU is at a boundary with nothing pending. -/
def State.withFetchWord (s : State) (nbits w : Nat) : State :=
  placeBytes (fetchAddr s) (tableWordBytes nbits w) ((atBoundary s).setPc (fetchAddr s))

end Sys2Proof.Machine
end

