-- ==== Sys2Proof/Machine/HostPort.lean ====
section
/-! DEFINITION. The host interface (63_io_dma_host.md R227, R228): construction from a cartridge image, and what the host
does between ticks. -/

namespace Sys2Proof.Machine

/-- Construction and power-on (R48, R232, R233): the loader, power-on values and parameters, then Reset(). The
parameters' own cartridge is replaced by the image's. -/
def construct (image : List Byte) (q : Params) : Except MalformedRom State :=
  match loadCart image with
  | .error e => .error e
  | .ok c => .ok (resetSequence (State.powerOn { q with cart := c }))

/-- What the host can do to the core between ticks (R227). -/
inductive HostAction where
  | buttons1 (b : Buttons)
  | buttons2 (b : Buttons)
  | gun (light trigger : Bool)
  | reset
  deriving DecidableEq, Repr

/-- The effect of a host action. A reset does not clear a fault (R160, R233). -/
def hostAct (h : HostAction) (s : State) : State :=
  match h with
  | .buttons1 b => s.setHost { s.host with buttons1 := b }
  | .buttons2 b => s.setHost { s.host with buttons2 := b }
  | .gun light trigger => s.setHost { s.host with gunLight := light, gunTrigger := trigger }
  | .reset => resetSequence s

/-- The host acts, then one tick runs (R228): the actions of a list in order. -/
def hostActs : List HostAction → State → State
  | [], s => s
  | h :: rest, s => hostActs rest (hostAct h s)

/-- A run with host actions (R229): before each tick the list's next entry of actions. It ends at the first fault. -/
def runWithHost : List (List HostAction) → State → Result
  | [], s => .next s
  | acts :: rest, s =>
    match step (hostActs acts s) with
    | .next s' => runWithHost rest s'
    | .fault r => .fault r
    | .refused r => .refused r

end Sys2Proof.Machine
end

