-- ==== Sys2Proof/Safety.lean ====
section
/-! DEFINITION. What the claims call a good state, and the terms they use: a running machine, the invariant every tick
keeps, operands an instruction can reach, and what one byte of storage holds. -/

namespace Sys2Proof.Machine

/-! ### Running and boundaries -/

/-- No fault is recorded: the state of a run that may count as final (R229). -/
def Running (s : State) : Prop := s.cpu.fault = none

/-- The next tick executes an instruction: no fault, no stall, no request (R164, R230). -/
def AtInstruction (s : State) : Prop :=
  s.cpu.fault = none ∧ s.cpu.stall = 0 ∧ s.cpu.nmiPending = false ∧ s.cpu.irqPending = false

/-- The bytes of a list stand in storage at rising addresses from `a` on (wrapping, R22). -/
def StoredAt (a : Addr) : List Byte → State → Prop
  | [], _ => True
  | b :: rest, s => peek a s = some b ∧ StoredAt (a + 1) rest s

/-! ### The invariant -/

/-- Every memory is in canonical form inside its size, and the cartridge is one the loader can make (R38, R47, R51–R55, R175). -/
def MemoriesWf (s : State) : Prop :=
  Memory.wf Config.ramSize s.ram = true ∧ Memory.wf Config.prgRamSize s.prgRam = true ∧
  Memory.wf Config.chrRamSize s.chrRam = true ∧ Memory.wf (vramSize s.cart.mirroring) s.vram = true ∧
  Memory.wf Config.oamSize s.ppu.oam = true ∧ Memory.wf Config.paletteSize s.ppu.palette = true ∧
  s.cart.wf = true

/-- Bit 5 of P reads 1 and the live B is 0 (R24, R29). -/
def StatusWf (p : Byte) : Prop := p.getLsbD 5 = true ∧ p.getLsbD 4 = false

/-- The PPU's position is inside the frame (R175, R187). -/
def PpuWf (p : Ppu) : Prop := p.scanline < Config.linesPerFrame ∧ p.dot < Config.dotsPerLine

/-- The length of the running frame sequence in CPU cycles (R203). -/
def sequenceLength (mode : Bool) : Nat := if mode then 37282 else 29830

/-- The APU's counters are in range (R197, R203), the DMC reads cartridge space (R217), the noise register is not stuck
at 0 (R214), and a disabled channel's length counter is 0 (R201). -/
def ApuWf (a : Apu) : Prop :=
  a.fsCounter < sequenceLength a.fsMode ∧
  (1 ≤ a.dmc.bitsLeft ∧ a.dmc.bitsLeft ≤ 8) ∧ 0x8000 ≤ a.dmc.curAddr.toNat ∧ a.noise.lfsr ≠ 0 ∧
  (a.enP1 = false → a.p1.len = 0) ∧ (a.enP2 = false → a.p2.len = 0) ∧
  (a.enTri = false → a.tri.len = 0) ∧ (a.enNoise = false → a.noise.len = 0)

/-- Dots in a frame (R188). -/
def dotsPerFrame : Nat := Config.dotsPerLine * Config.linesPerFrame

/-- Three dots and one APU step per CPU cycle: the PPU's position and the APU's step count follow `cycle` (R3, R229). -/
def LockStep (s : State) : Prop :=
  s.ppu.scanline * Config.dotsPerLine + s.ppu.dot = (3 * s.cpu.cycle) % dotsPerFrame ∧ s.apu.apuCycle = s.cpu.cycle

/-- Every part of the state is in its own form. -/
def StateWf (s : State) : Prop := MemoriesWf s ∧ StatusWf s.cpu.p ∧ PpuWf s.ppu ∧ ApuWf s.apu

/-- The invariant of the whole system at a tick boundary. -/
def Inv (s : State) : Prop := StateWf s ∧ LockStep s

/-! ### Operands -/

/-- The operand's place is not an address of the disabled range, so that loading it raises no fault (R41). -/
def Readable (m : Operand) (s : State) : Prop := ∀ a, (resolve m s).place = .mem a → disabled a = false

/-- A bus write of `v` at `a` raises no fault: the address is not disabled, and it does not start an OAM DMA from page
0x40, whose reads reach 0x4018 (R41, R221). -/
def Writable (a : Addr) (v : Byte) : Prop := disabled a = false ∧ ¬(a = 0x4014 ∧ v = 0x40)

/-- The page penalty of a read instruction (R86), as a count of cycles. -/
def pagePenalty (m : Operand) (s : State) : Nat := (resolve m s).crossed.toNat

/-- The cycles an instruction adds to `stall` after its own tick, page penalty included (R164, R231). -/
def restCycles (i : Instr) (s : State) : Nat := i.baseCycles - 1 + pagePenalty i.operand s

/-- What a bus read can change, at most (R59): VBLANK, the write toggle, the PPUDATA buffer and pointer, the frame-IRQ
flag, the controller shift registers, and the count of open-bus draws. Everything else is the same. -/
def ReadEffect (s t : State) : Prop :=
  ∃ (vbl w : Bool) (rbuf : Byte) (vaddr : BitVec 16) (frameIrq : Bool) (shift1 shift2 : Byte) (draws : Nat),
    t = { s with ppu := { s.ppu with vbl := vbl, w := w, rbuf := rbuf, vaddr := vaddr }
                 apu := { s.apu with frameIrq := frameIrq }
                 ports := { s.ports with shift1 := shift1, shift2 := shift2 }, draws := draws }

/-- Every stored byte of the CPU space reads as before. -/
def SameStorage (s t : State) : Prop := ∀ a, peek a t = peek a s

/-- Every stored byte reads as before, except at addresses of the one cell that `a` reaches (none, where `a` stores nothing). -/
def SameStorageExcept (a : Addr) (s t : State) : Prop :=
  ∀ b, storedCell s.cart b = none ∨ storedCell s.cart b ≠ storedCell s.cart a → peek b t = peek b s

/-- Every memory of the system is the same: RAM, cartridge, PRG and CHR RAM, nametables, OAM, palette. -/
def SameMemories (s t : State) : Prop :=
  t.ram = s.ram ∧ t.cart = s.cart ∧ t.prgRam = s.prgRam ∧ t.chrRam = s.chrRam ∧ t.vram = s.vram ∧
  t.ppu.oam = s.ppu.oam ∧ t.ppu.palette = s.ppu.palette

/-! ### Shapes of the claims -/

/-- A read instruction completes: its operand is loaded once, at most the read's own effects happen, the CPU's registers
become what `effect` makes of the byte, the cycles are counted, and nothing else changes. -/
def ReadsThen (i : Instr) (effect : Byte → Cpu → Cpu) (s : State) : Prop :=
  ∃ v t, loadPlace (resolve i.operand s).place s = .ok v t ∧ ReadEffect s t ∧
    exec i s = .next { t with cpu := { effect v s.cpu with stall := s.cpu.stall + restCycles i s } }

/-- A store completes: the byte goes to the resolved address in one bus write, no register changes (a register write of
the PPU or of OAM DMA may request an NMI or add stall cycles), and no other stored byte changes. -/
def StoresByte (i : Instr) (v : Byte) (s : State) : Prop :=
  ∃ a t, (resolve i.operand s).place = .mem a ∧ busWrite a v s = .ok () t ∧
    exec i s = .next { t with cpu := { t.cpu with stall := t.cpu.stall + (i.baseCycles - 1) } } ∧
    t.cpu = { s.cpu with stall := t.cpu.stall, nmiPending := t.cpu.nmiPending } ∧ SameStorageExcept a s t

/-- A read-modify-write of memory completes: one bus read of the resolved address, the carry where the computation has
one, one bus write of the result there, then Z and N of the result; no other register and no other stored byte changes. -/
def ModifiesByte (i : Instr) (f : Byte → Bool → RmwOut) (s : State) : Prop :=
  ∃ a v s1 t, (resolve i.operand s).place = .mem a ∧ busRead a s = .ok v s1 ∧
    busWrite a (f v (getFlag .c s.cpu.p)).value
      { s1 with cpu := { s1.cpu with p := rmwCarry (f v (getFlag .c s.cpu.p)) s.cpu.p } } = .ok () t ∧
    exec i s = .next { t with cpu := { t.cpu with p := setZN (f v (getFlag .c s.cpu.p)).value t.cpu.p
                                                  stall := t.cpu.stall + (i.baseCycles - 1) } } ∧
    t.cpu = { s.cpu with p := rmwCarry (f v (getFlag .c s.cpu.p)) s.cpu.p, stall := t.cpu.stall
                         nmiPending := t.cpu.nmiPending } ∧ SameStorageExcept a s t

/-- The operand of a read-modify-write can be read and its result written back without a fault: the address is not
disabled, and a write of the result to the OAM-DMA trigger, whose read is an open-bus draw, does not name page 0x40
(R41, R221). -/
def Modifiable (i : Instr) (f : Byte → Bool → RmwOut) (s : State) : Prop :=
  ∃ a, (resolve i.operand s).place = .mem a ∧ disabled a = false ∧
    (a = 0x4014 → (f (openBusByte s) (getFlag .c s.cpu.p)).value ≠ 0x40)

/-- Only the CPU's registers change: they become `c`, and the cycles of instruction `i` are counted. -/
def OnlyCpu (i : Instr) (c : Cpu) (s : State) : Prop :=
  exec i s = .next { s with cpu := { c with stall := s.cpu.stall + (i.baseCycles - 1) } }

/-- The RAM byte of the stack page at offset `k` (R23). -/
def stackByte (k : Byte) (s : State) : Byte := Memory.read s.ram (0x100 + k.toNat)

/-- The state after an entry through `vector` with the return address `ret` (R165): three bytes pushed, S down by 3, I set
and the other bits of P kept, PC from the vector, every other RAM byte and everything outside the CPU and RAM as before. -/
def Entered (vector ret : Addr) (s t : State) : Prop :=
  stackByte s.cpu.s t = highByte ret ∧ stackByte (s.cpu.s - 1) t = lowByte ret ∧
  stackByte (s.cpu.s - 2) t = s.cpu.p ||| 0x34 ∧
  (∀ k, k ≠ 0x100 + s.cpu.s.toNat → k ≠ 0x100 + (s.cpu.s - 1).toNat → k ≠ 0x100 + (s.cpu.s - 2).toNat →
    Memory.read t.ram k = Memory.read s.ram k) ∧
  t = { s with ram := t.ram
               cpu := { s.cpu with s := s.cpu.s - 3, p := s.cpu.p ||| 0x04, stall := t.cpu.stall
                                   pc := pair (s.cart.readPrg (vector + 1)) (s.cart.readPrg vector) } }

/-! ### The video bus and the picture, in the claims' own terms -/

/-- The stored byte a video address reaches: pattern ROM or RAM, nametable RAM, palette RAM. -/
inductive VideoCell where
  | chrRom (k : Nat)
  | chrRam (k : Nat)
  | nametable (k : Nat)
  | palette (k : Nat)
  deriving DecidableEq, Repr

/-- The nametable RAM byte at offset `o` of the four logical tables, by mirroring mode (R54). -/
def nametableByte : Mirroring → Nat → Nat
  | .horizontal, o => o / 0x800 * 0x400 + o % 0x400
  | .vertical, o => o % 0x800
  | .singleScreen k, o => k.val * 0x400 + o % 0x400
  | .fourScreen, o => o

/-- Which byte a video address is (R52–R55): 0x4000 addresses repeat, 0x3000–0x3EFF repeats the nametables, CHR ROM repeats
in pattern space, the palette repeats every 32 bytes with one byte for every entry 0. -/
def videoCell (c : Cart) (a : Nat) : VideoCell :=
  if a % 0x4000 < 0x2000 then
    if c.chrUnits = 0 then .chrRam (a % 0x4000) else .chrRom (a % 0x4000 % (8192 * c.chrUnits))
  else if a % 0x4000 < 0x3F00 then .nametable (nametableByte c.mirroring (a % 0x1000))
  else .palette (if a % 4 = 0 then 0 else a % 32)

/-- The byte a cell holds. -/
def videoByte (s : State) : VideoCell → Byte
  | .chrRom k => Memory.read s.cart.chr k
  | .chrRam k => Memory.read s.chrRam k
  | .nametable k => Memory.read s.vram k
  | .palette k => Memory.read s.ppu.palette k

/-- The 2-bit colour at bit `b` of row `row` of a tile: the high bit from the plane 8 bytes on (R191, R192). -/
def tilePixel (s : State) (base tile row b : Nat) : Nat :=
  2 * ((vread s (base + 16 * tile + row + 8)).getLsbD b).toNat + ((vread s (base + 16 * tile + row)).getLsbD b).toNat

/-! ### Audio, ports and dots -/

/-- The length counters of `b` are those of `a`, each counted down by one, if the clock comes, where its halt flag is 0 and
it is not 0 already (R206). -/
def LengthsClocked (clock : Bool) (a b : Apu) : Prop :=
  b.p1.len.toNat = a.p1.len.toNat - (if clock && !a.p1.env.lenHalt then 1 else 0) ∧
  b.p2.len.toNat = a.p2.len.toNat - (if clock && !a.p2.env.lenHalt then 1 else 0) ∧
  b.tri.len.toNat = a.tri.len.toNat - (if clock && !a.tri.linCtrl then 1 else 0) ∧
  b.noise.len.toNat = a.noise.len.toNat - (if clock && !a.noise.env.lenHalt then 1 else 0)

/-- Bit 0 of `n` reads of a controller port in a row. -/
def portBits (a : Addr) : Nat → State → List Bool
  | 0, _ => []
  | n + 1, s => bitOf (ioRead a s).1 0 :: portBits a n (ioRead a s).2

/-- `n` PPU steps. -/
def ppuSteps : Nat → State → State
  | 0, s => s
  | n + 1, s => ppuSteps n (ppuStep s)

end Sys2Proof.Machine
end

