-- ==== Sys2Proof/Certificates/Slice0/Obligations.lean ====
section
/-! DEFINITION. The statements for the provers, one definition each, from the numbered rules of the spec. -/

open Sys2Proof Sys2Proof.Machine

/-- For every one of the 151 instructions, with every operand value, decoding its bytes followed by any further bytes
gives the instruction and exactly the further bytes.
(R67, R68, R88) -/
def Obligations.DecodeReadsEncodedInstruction : Prop :=
  ∀ (i : Instr) (rest : List Byte), decode (encode i ++ rest) = some (i, rest)

/-- If decoding a byte string gives an instruction and a rest, the byte string is that instruction's encoding followed
by the rest; a byte string passes the well-formedness check exactly if it is the encoding of some instruction; every
encoding has the length its opcode selects, between 1 and 3 bytes.
(R67, R68, R88, R89) -/
def Obligations.DecodedBytesAreTheEncoding : Prop :=
  (∀ (bytes : List Byte) (i : Instr) (rest : List Byte), decode bytes = some (i, rest) → bytes = encode i ++ rest) ∧
  (∀ bytes : List Byte, wellFormedBytes bytes = true ↔ ∃ i, bytes = encode i) ∧
  (∀ i : Instr, i.length = opcodeLength i.opcode ∧ 1 ≤ i.length ∧ i.length ≤ 3)

/-- The list of invalid opcodes has 105 distinct members; decoding a byte string that starts with one of them gives
nothing, whatever follows; every other opcode byte followed by two operand bytes decodes. A step whose opcode fetch,
one bus read at PC, returns one of the 105 bytes raises InvalidOpcode with the byte and its own address: PC is one
past it, no other read happens, and nothing else changes.
(R90) -/
def Obligations.InvalidOpcodesAreRefused : Prop :=
  invalidOpcodes.length = 105 ∧ invalidOpcodes.Nodup ∧
  (∀ (op : Byte) (rest : List Byte), op.toNat ∈ invalidOpcodes → decode (op :: rest) = none) ∧
  (∀ (op a b : Byte), op.toNat ∉ invalidOpcodes → ∃ i rest, decode [op, a, b] = some (i, rest)) ∧
  (∀ (op : Byte) (s t : State), op.toNat ∈ invalidOpcodes → AtInstruction s → busRead s.cpu.pc s = .ok op t →
    step s = .next { t with cpu := { s.cpu with pc := s.cpu.pc + 1
                                                fault := some (.invalidOpcode op s.cpu.pc) } })

/-- LDA #$80, STA $1234, JMP ($02FF), BNE with offset FE, ADC ($20),Y, INC $10, PHA, ROR A, BRK and LDX $10,Y decode
from their bytes, low address byte first.
(R87, R88) -/
def Obligations.SampleWordsDecode : Prop :=
  decodeTableWord 16 0x80A9 = some (.ldaImm 0x80) ∧ decodeTableWord 24 0x12348D = some (.staAbs 0x1234) ∧
  decodeTableWord 24 0x02FF6C = some (.jmpInd 0x02FF) ∧ decodeTableWord 16 0xFED0 = some (.bne 0xFE) ∧
  decodeTableWord 16 0x2071 = some (.adcIndY 0x20) ∧ decodeTableWord 16 0x10E6 = some (.incZp 0x10) ∧
  decodeTableWord 8 0x48 = some .pha ∧ decodeTableWord 8 0x6A = some .rorAcc ∧
  decodeTableWord 8 0x00 = some .brk ∧ decodeTableWord 16 0x10B6 = some (.ldxZpY 0x10)

/-- When the next tick is an instruction boundary with nothing pending and the bytes from PC on, all in storage, are the
encoding of i, the step is exec of i with PC moved past the instruction, followed by the rest of the tick (three PPU
steps, the APU step, the cycle count) unless the instruction recorded a fault.
(R69, R229, R230, R164) -/
def Obligations.StepRunsDecodedInstruction : Prop :=
  ∀ (i : Instr) (s : State), AtInstruction s → StoredAt s.cpu.pc (encode i) s →
    step s =
      match exec i (s.setPc (s.cpu.pc + BitVec.ofNat 16 i.length)) with
      | .next t => .next (afterCpuTick t)
      | .fault r => .fault r
      | .refused r => .refused r

/-- From every state without a recorded fault the step answers a next state; from a state with one it answers that
fault, and no host action, a reset included, clears the record; raising a fault sets the record and changes nothing
else, and the rest of the tick is not run; a step never answers a refusal.
(R160, R229) -/
def Obligations.FaultEndsTheRun : Prop :=
  (∀ s : State, s.cpu.fault = none → ∃ t, step s = .next t) ∧
  (∀ (s : State) (r : Fault), s.cpu.fault = some r → step s = .fault r) ∧
  (∀ (s : State) (r : Refusal), step s ≠ .refused r) ∧
  (∀ (h : HostAction) (s : State), (hostAct h s).cpu.fault = s.cpu.fault) ∧
  (∀ (base : Nat) (r : Fault) (s : State),
    complete base (.stop r s) = .next { s with cpu := { s.cpu with fault := some r } }) ∧
  (∀ s : State, s.cpu.fault ≠ none → afterCpuTick s = s)

/-- At an instruction boundary with PC in the disabled range, the step records InvalidAddress with that address, PC and
everything else as before. For every load, store, ALU or read-modify-write instruction whose resolved address lies
in the disabled range, exec leaves the state as it was (the PC past the instruction) with InvalidAddress and that
address recorded.
(R41, R161, R94, R113, R123, R130) -/
def Obligations.DisabledRangeFaults : Prop :=
  (∀ s : State, AtInstruction s → 0x4018 ≤ s.cpu.pc.toNat → s.cpu.pc.toNat ≤ 0x401F →
    step s = .next { s with cpu := { s.cpu with fault := some (.invalidAddress s.cpu.pc) } }) ∧
  (∀ (i : Instr) (s : State) (a : Addr),
    i.mnemonic ∈ [Mnemonic.lda, .ldx, .ldy, .sta, .stx, .sty, .adc, .sbc, .and, .ora, .eor, .bit, .cmp, .cpx, .cpy,
      .inc, .dec, .asl, .lsr, .rol, .ror] →
    (resolve i.operand s).place = .mem a → 0x4018 ≤ a.toNat → a.toNat ≤ 0x401F →
    exec i s = .next { s with cpu := { s.cpu with fault := some (.invalidAddress a) } })

/-- In a state in form, if a step from a state without a fault ends with a fault recorded, then the PPU position, the
APU step count, the frame output and the cycle count are as before the tick.
(R160, R229) -/
def Obligations.FaultAbandonsTheTick : Prop :=
  ∀ s t : State, Inv s → s.cpu.fault = none → step s = .next t → t.cpu.fault ≠ none →
    t.ppu.scanline = s.ppu.scanline ∧ t.ppu.dot = s.ppu.dot ∧ t.apu.apuCycle = s.apu.apuCycle ∧ t.out = s.out ∧
    t.cpu.cycle = s.cpu.cycle

/-- With stall n + 1 and no fault, the step is the countdown of stall to n followed by the rest of the tick, and leaves
A, X, Y, S, P, PC, RAM and PRG RAM as they were, whatever is pending; with stall 0 the CPU tick is the boundary
logic.
(R230) -/
def Obligations.StallTickOnlyCountsDown : Prop :=
  (∀ (n : Nat) (s t : State), s.cpu.fault = none → s.cpu.stall = n + 1 → step s = .next t →
    t = finishTick (s.setStall n) ∧
    t.cpu.a = s.cpu.a ∧ t.cpu.x = s.cpu.x ∧ t.cpu.y = s.cpu.y ∧ t.cpu.s = s.cpu.s ∧ t.cpu.p = s.cpu.p ∧
    t.cpu.pc = s.cpu.pc ∧ t.ram = s.ram ∧ t.prgRam = s.prgRam) ∧
  (∀ s : State, s.cpu.stall = 0 → cpuTick s = boundary s)

/-- At a boundary with an NMI pending, the step enters through 0xFFFA with PC as the return address, clears the NMI
latch, keeps the IRQ latch and leaves 6 cycles of stall before the rest of the tick. With only an IRQ pending: if
P.I is 0 it enters through 0xFFFE in the same way and clears the IRQ latch; if P.I is 1, the step is the step of the
same state with the latch cleared, so the next instruction runs.
(R164, R165, R166, R27) -/
def Obligations.BoundaryTakesInterrupts : Prop :=
  (∀ s : State, MemoriesWf s → s.cpu.fault = none → s.cpu.stall = 0 → s.cpu.nmiPending = true →
    ∃ t, step s = .next (finishTick t) ∧ Entered 0xFFFA s.cpu.pc (s.setNmi false) t ∧ t.cpu.stall = 6 ∧
      t.cpu.irqPending = s.cpu.irqPending) ∧
  (∀ s : State, MemoriesWf s → s.cpu.fault = none → s.cpu.stall = 0 → s.cpu.nmiPending = false →
    s.cpu.irqPending = true → getFlag .i s.cpu.p = false →
    ∃ t, step s = .next (finishTick t) ∧ Entered 0xFFFE s.cpu.pc (s.setIrq false) t ∧ t.cpu.stall = 6) ∧
  (∀ s : State, s.cpu.fault = none → s.cpu.stall = 0 → s.cpu.nmiPending = false → s.cpu.irqPending = true →
    getFlag .i s.cpu.p = true → step s = step (s.setIrq false))

/-- Entry through the NMI or the IRQ vector from a state in form writes PC high, PC low and P with bits 5, 4 and 2 set
at S, S-1 and S-2 of the stack page (wrapping in it), decreases S by 3, sets I, loads PC from the vector (low byte
at the vector), and changes nothing else: no other RAM byte, no other bit of P, no other register.
(R165) -/
def Obligations.InterruptEntrySavesAndVectors : Prop :=
  ∀ (vector : Addr) (s : State), vector = 0xFFFA ∨ vector = 0xFFFE → MemoriesWf s →
    Entered vector s.cpu.pc s (enterInterrupt vector s) ∧
    takeInterrupt vector s = (enterInterrupt vector s).setStall 6 ∧
    busRead vector s = .ok (s.cart.readPrg vector) s ∧ busRead (vector + 1) s = .ok (s.cart.readPrg (vector + 1)) s

/-- For every state in form and either vector, RTI run in the state an entry leaves gives PC and S as they were before
the entry and P as it was but with I = 1, whatever I was; A, X and Y are as before.
(R167, R150, C6) -/
def Obligations.RtiUndoesInterruptEntry : Prop :=
  ∀ (vector : Addr) (s : State), MemoriesWf s → StatusWf s.cpu.p →
    ∃ t, exec .rti (enterInterrupt vector s) = .next t ∧ t.cpu.pc = s.cpu.pc ∧ t.cpu.s = s.cpu.s ∧
      t.cpu.p = s.cpu.p ||| 0x04 ∧ t.cpu.a = s.cpu.a ∧ t.cpu.x = s.cpu.x ∧ t.cpu.y = s.cpu.y

/-- Whatever instruction runs, a pending NMI stays pending and the IRQ latch is unchanged: only the boundary logic and
reset clear a latch. An instruction never lowers stall and never moves the tick count.
(R163, R164, R203, R217, R218, R32, R14, R231) -/
def Obligations.LatchesOutliveInstructions : Prop :=
  ∀ (i : Instr) (s t : State), exec i s = .next t →
    (s.cpu.nmiPending = true → t.cpu.nmiPending = true) ∧ t.cpu.irqPending = s.cpu.irqPending ∧
    s.cpu.stall ≤ t.cpu.stall ∧ t.cpu.cycle = s.cpu.cycle

/-- As natural numbers: zero page is the operand byte; zero page,X and ,Y add the index modulo 256; absolute is the
operand; absolute,X and ,Y add the index modulo 65536 and cross a page exactly if the quotient by 256 changes;
(zp,X) and (zp),Y take a pointer whose low byte is at the zero-page address and whose high byte is at the next one
modulo 256, the second adding Y modulo 65536 with the page test.
(R75, R76, R77, R78, R79, R80, R81, R82, R86) -/
def Obligations.OperandsResolve : Prop :=
  ∀ (b : Byte) (a : Addr) (s : State),
    (∃ e, resolve (.zp b) s = ⟨.mem e, false⟩ ∧ e.toNat = b.toNat) ∧
    (∃ e, resolve (.zpX b) s = ⟨.mem e, false⟩ ∧ e.toNat = (b.toNat + s.cpu.x.toNat) % 256) ∧
    (∃ e, resolve (.zpY b) s = ⟨.mem e, false⟩ ∧ e.toNat = (b.toNat + s.cpu.y.toNat) % 256) ∧
    resolve (.abs a) s = ⟨.mem a, false⟩ ∧
    (∃ e, resolve (.absX a) s = ⟨.mem e, decide (a.toNat / 256 ≠ e.toNat / 256)⟩ ∧
      e.toNat = (a.toNat + s.cpu.x.toNat) % 65536) ∧
    (∃ e, resolve (.absY a) s = ⟨.mem e, decide (a.toNat / 256 ≠ e.toNat / 256)⟩ ∧
      e.toNat = (a.toNat + s.cpu.y.toNat) % 65536) ∧
    (∃ e, resolve (.indX b) s = ⟨.mem e, false⟩ ∧
      e.toNat = (Memory.read s.ram ((b.toNat + s.cpu.x.toNat) % 256)).toNat +
        256 * (Memory.read s.ram ((b.toNat + s.cpu.x.toNat + 1) % 256)).toNat) ∧
    (∃ base e, resolve (.indY b) s = ⟨.mem e, decide (base / 256 ≠ e.toNat / 256)⟩ ∧
      base = (Memory.read s.ram b.toNat).toNat + 256 * (Memory.read s.ram ((b.toNat + 1) % 256)).toNat ∧
      e.toNat = (base + s.cpu.y.toNat) % 65536)

/-- In the layout N V 1 B D I Z C, writing a flag gives that bit the value and leaves every other bit; SetZN makes Z
whether the byte is 0, N its bit 7, and leaves the other six bits.
(R24, R12) -/
def Obligations.FlagWritesTouchOneBit : Prop :=
  (∀ (f : Flag) (v : Bool) (p : Byte) (k : Nat), k < 8 →
    (putFlag f v p).getLsbD k = if k = flagBit f then v else p.getLsbD k) ∧
  (∀ (v p : Byte) (k : Nat), k < 8 →
    (setZN v p).getLsbD k = if k = 7 then decide (128 ≤ v.toNat) else if k = 1 then decide (v.toNat = 0)
      else p.getLsbD k) ∧
  [Flag.c, .z, .i, .d, .b, .v, .n].map flagBit = [0, 1, 2, 3, 4, 6, 7]

/-- For every operand form whose address is not in the disabled range, LDA (LDX, LDY) answers a next state: the operand
is read once, A (X, Y) becomes the byte, P becomes SetZN of it, the base cycles less one and the page penalty are
added to stall, and apart from the read's own device effects everything else, all memory included, is unchanged.
(R95, R96, R97, R70, R86) -/
def Obligations.LoadsComplete : Prop :=
  ∀ (i : Instr) (s : State), Readable i.operand s →
    (i.mnemonic = .lda → ReadsThen i (fun v c => { c with a := v, p := setZN v c.p }) s) ∧
    (i.mnemonic = .ldx → ReadsThen i (fun v c => { c with x := v, p := setZN v c.p }) s) ∧
    (i.mnemonic = .ldy → ReadsThen i (fun v c => { c with y := v, p := setZN v c.p }) s)

/-- For every operand form and every address whose write raises no fault, STA (STX, STY) answers a next state: one bus
write of A (X, Y) at the resolved address, the base cycles less one added to stall with no page penalty, no register
or flag changed, and no stored byte changed but the cell the address reaches.
(R98, R99, R100, R86) -/
def Obligations.StoresComplete : Prop :=
  ∀ (i : Instr) (s : State), MemoriesWf s →
    (i.mnemonic = .sta → (∀ a, (resolve i.operand s).place = .mem a → Writable a s.cpu.a) → StoresByte i s.cpu.a s) ∧
    (i.mnemonic = .stx → (∀ a, (resolve i.operand s).place = .mem a → Writable a s.cpu.x) → StoresByte i s.cpu.x s) ∧
    (i.mnemonic = .sty → (∀ a, (resolve i.operand s).place = .mem a → Writable a s.cpu.y) → StoresByte i s.cpu.y s)

/-- Reading an address that stores a byte returns it and changes nothing; any other read that returns changes at most
VBLANK, the write toggle, the PPUDATA buffer and pointer, the frame-IRQ flag, the controller shift registers and the
count of draws, and no memory; a read at 0x4018-0x401F stops with InvalidAddress and no effect, and no other read
stops.
(R37, R41, R59) -/
def Obligations.BusReadEffects : Prop :=
  (∀ (a : Addr) (s : State) (v : Byte), peek a s = some v → busRead a s = .ok v s) ∧
  (∀ (a : Addr) (s t : State) (v : Byte), busRead a s = .ok v t → ReadEffect s t ∧ SameMemories s t ∧ SameStorage s t) ∧
  (∀ (a : Addr) (s t : State) (r : Fault), busRead a s = .stop r t ↔
    (0x4018 ≤ a.toNat ∧ a.toNat ≤ 0x401F ∧ r = .invalidAddress a ∧ t = s))

/-- In a state in form: a write at a RAM or PRG RAM address changes only that memory, reads back there and at every
mirror, and leaves every other stored byte; a write at 0x4020-0x5FFF or to PRG ROM changes nothing; a write anywhere
that completes changes no stored byte of another cell; a write at 0x4018-0x401F stops with InvalidAddress and no
effect.
(R38, R50, R51, R41) -/
def Obligations.BusWritesReachOneCell : Prop :=
  (∀ (a b : Addr) (v : Byte) (s : State), MemoriesWf s → a.toNat < 0x2000 →
    ∃ t, busWrite a v s = .ok () t ∧ t = { s with ram := t.ram } ∧
      (b.toNat < 0x2000 → b.toNat % 0x800 = a.toNat % 0x800 → peek b t = some v) ∧
      (b.toNat < 0x2000 → b.toNat % 0x800 ≠ a.toNat % 0x800 → peek b t = peek b s)) ∧
  (∀ (a b : Addr) (v : Byte) (s : State), MemoriesWf s → 0x6000 ≤ a.toNat → a.toNat < 0x8000 →
    ∃ t, busWrite a v s = .ok () t ∧ t = { s with prgRam := t.prgRam } ∧ peek a t = some v ∧
      (b ≠ a → peek b t = peek b s)) ∧
  (∀ (a : Addr) (v : Byte) (s : State), (0x4020 ≤ a.toNat ∧ a.toNat < 0x6000) ∨ 0x8000 ≤ a.toNat →
    busWrite a v s = .ok () s) ∧
  (∀ (a : Addr) (v : Byte) (s t : State), MemoriesWf s → busWrite a v s = .ok () t → SameStorageExcept a s t) ∧
  (∀ (a : Addr) (v : Byte) (s : State), 0x4018 ≤ a.toNat → a.toNat ≤ 0x401F →
    busWrite a v s = .stop (.invalidAddress a) s)

/-- In every state each transfer answers the state whose destination register is the source register's byte, and each
register step the state whose X (Y) is one more (less) modulo 256; P is SetZN of the new byte (unchanged for TXS).
ASL, LSR, ROL and ROR on A shift A by one bit, the old carry entering the free bit of the rotates, C taking the bit
shifted out, Z and N those of the result. One stall cycle is added and nothing else changes.
(R102, R103, R104, R105, R106, R107, R126, R127, R128, R129, R130, R131, R132, R133, R134) -/
def Obligations.RegisterInstructionsComplete : Prop :=
  ∀ s : State,
    OnlyCpu .tax { s.cpu with x := s.cpu.a, p := setZN s.cpu.a s.cpu.p } s ∧
    OnlyCpu .tay { s.cpu with y := s.cpu.a, p := setZN s.cpu.a s.cpu.p } s ∧
    OnlyCpu .txa { s.cpu with a := s.cpu.x, p := setZN s.cpu.x s.cpu.p } s ∧
    OnlyCpu .tya { s.cpu with a := s.cpu.y, p := setZN s.cpu.y s.cpu.p } s ∧
    OnlyCpu .tsx { s.cpu with x := s.cpu.s, p := setZN s.cpu.s s.cpu.p } s ∧
    OnlyCpu .txs { s.cpu with s := s.cpu.x } s ∧
    OnlyCpu .inx { s.cpu with x := s.cpu.x + 1, p := setZN (s.cpu.x + 1) s.cpu.p } s ∧
    OnlyCpu .iny { s.cpu with y := s.cpu.y + 1, p := setZN (s.cpu.y + 1) s.cpu.p } s ∧
    OnlyCpu .dex { s.cpu with x := s.cpu.x - 1, p := setZN (s.cpu.x - 1) s.cpu.p } s ∧
    OnlyCpu .dey { s.cpu with y := s.cpu.y - 1, p := setZN (s.cpu.y - 1) s.cpu.p } s ∧
    OnlyCpu .aslAcc { s.cpu with a := s.cpu.a <<< 1
                                 p := setZN (s.cpu.a <<< 1) (putFlag .c (s.cpu.a.getLsbD 7) s.cpu.p) } s ∧
    OnlyCpu .lsrAcc { s.cpu with a := s.cpu.a >>> 1
                                 p := setZN (s.cpu.a >>> 1) (putFlag .c (s.cpu.a.getLsbD 0) s.cpu.p) } s ∧
    OnlyCpu .rolAcc { s.cpu with a := (s.cpu.a <<< 1) ||| bitByte (getFlag .c s.cpu.p)
                                 p := setZN ((s.cpu.a <<< 1) ||| bitByte (getFlag .c s.cpu.p))
                                   (putFlag .c (s.cpu.a.getLsbD 7) s.cpu.p) } s ∧
    OnlyCpu .rorAcc { s.cpu with a := (s.cpu.a >>> 1) ||| (bitByte (getFlag .c s.cpu.p) <<< 7)
                                 p := setZN ((s.cpu.a >>> 1) ||| (bitByte (getFlag .c s.cpu.p) <<< 7))
                                   (putFlag .c (s.cpu.a.getLsbD 0) s.cpu.p) } s

/-- PHA stores A, and PHP stores P with bits 5 and 4 set, at 0x0100 + S, S becomes S - 1 (0xFF after 0x00), two stall
cycles are added, no flag changes and no other memory, register or device does; the byte reads back there and every
other RAM byte reads as before.
(R108, R109, R23) -/
def Obligations.PushesComplete : Prop :=
  ∀ s : State, MemoriesWf s →
    (∃ t, exec .pha s = .next t ∧ stackByte s.cpu.s t = s.cpu.a ∧
      (∀ k, k ≠ 0x100 + s.cpu.s.toNat → Memory.read t.ram k = Memory.read s.ram k) ∧
      t = { s with ram := t.ram, cpu := { s.cpu with s := s.cpu.s - 1, stall := s.cpu.stall + 2 } }) ∧
    (∃ t, exec .php s = .next t ∧ stackByte s.cpu.s t = s.cpu.p ||| 0x30 ∧
      (∀ k, k ≠ 0x100 + s.cpu.s.toNat → Memory.read t.ram k = Memory.read s.ram k) ∧
      t = { s with ram := t.ram, cpu := { s.cpu with s := s.cpu.s - 1, stall := s.cpu.stall + 2 } })

/-- PLA makes A the byte at 0x0100 + (S + 1 mod 256) with Z and N of it; PLP takes N, V, D, I, Z and C from it, with B 0
and bit 5 at 1; S becomes S + 1, three stall cycles are added, and nothing else changes.
(R110, R111, R23) -/
def Obligations.PullsComplete : Prop :=
  (∀ s : State, OnlyCpu .pla { s.cpu with s := s.cpu.s + 1, a := stackByte (s.cpu.s + 1) s
                                          p := setZN (stackByte (s.cpu.s + 1) s) s.cpu.p } s) ∧
  (∀ s : State, ∃ p : Byte, OnlyCpu .plp { s.cpu with s := s.cpu.s + 1, p := p } s ∧
    ∀ k, k < 8 → p.getLsbD k =
      if k = 4 then false else if k = 5 then true else (stackByte (s.cpu.s + 1) s).getLsbD k)

/-- The eight forms have the opcodes of R114. For every form of ADC whose operand is readable, with m the operand byte
read once: A becomes (A + m + C) mod 256; C is 1 exactly if the unsigned sum reaches 256; V is 1 exactly if the
signed sum is below -128 or above 127; Z and N come from the result; I, D, B and bit 5 are kept; the cycles are
counted and nothing else changes. An operand in the disabled range raises InvalidAddress instead.
(R114) -/
def Obligations.AdcComputes : Prop :=
  (∀ (b : Byte) (a : Addr), [encode (.adcImm b), encode (.adcZp b), encode (.adcZpX b), encode (.adcAbs a), encode (.adcAbsX a),
      encode (.adcAbsY a), encode (.adcIndX b), encode (.adcIndY b)] =
    [[0x69, b], [0x65, b], [0x75, b], [0x6D, lowByte a, highByte a], [0x7D, lowByte a, highByte a],
      [0x79, lowByte a, highByte a], [0x61, b], [0x71, b]]) ∧
  (∀ (i : Instr) (s : State), i.mnemonic = .adc → Readable i.operand s →
    ∃ (m p : Byte) (t : State),
      loadPlace (resolve i.operand s).place s = .ok m t ∧ ReadEffect s t ∧
      exec i s = .next { t with cpu := { s.cpu with a := s.cpu.a + m + bitByte (getFlag .c s.cpu.p), p := p
                                                    stall := s.cpu.stall + restCycles i s } } ∧
      (s.cpu.a + m + bitByte (getFlag .c s.cpu.p)).toNat =
        (s.cpu.a.toNat + m.toNat + (getFlag .c s.cpu.p).toNat) % 256 ∧
      getFlag .c p = decide (256 ≤ s.cpu.a.toNat + m.toNat + (getFlag .c s.cpu.p).toNat) ∧
      getFlag .v p = decide (s.cpu.a.toInt + m.toInt + (getFlag .c s.cpu.p).toNat < -128 ∨
        127 < s.cpu.a.toInt + m.toInt + (getFlag .c s.cpu.p).toNat) ∧
      getFlag .z p = decide (s.cpu.a + m + bitByte (getFlag .c s.cpu.p) = 0) ∧
      getFlag .n p = (s.cpu.a + m + bitByte (getFlag .c s.cpu.p)).getLsbD 7 ∧
      ∀ k ∈ [2, 3, 4, 5], p.getLsbD k = s.cpu.p.getLsbD k) ∧
  (∀ (i : Instr) (s : State) (a : Addr), i.mnemonic = .adc → (resolve i.operand s).place = .mem a →
    disabled a = true → exec i s = .next { s with cpu := { s.cpu with fault := some (.invalidAddress a) } })

/-- The eight forms have the opcodes of R115. For every form of SBC whose operand is readable, with m the operand byte
read once: A becomes (A - m - (1 - C)) mod 256; C is 1 exactly if A >= m + (1 - C) unsigned; V is 1 exactly if the
signed difference is below -128 or above 127; Z and N come from the result; I, D, B and bit 5 are kept; the cycles
are counted and nothing else changes. An operand in the disabled range raises InvalidAddress instead.
(R115) -/
def Obligations.SbcComputes : Prop :=
  (∀ (b : Byte) (a : Addr), [encode (.sbcImm b), encode (.sbcZp b), encode (.sbcZpX b), encode (.sbcAbs a), encode (.sbcAbsX a),
      encode (.sbcAbsY a), encode (.sbcIndX b), encode (.sbcIndY b)] =
    [[0xE9, b], [0xE5, b], [0xF5, b], [0xED, lowByte a, highByte a], [0xFD, lowByte a, highByte a],
      [0xF9, lowByte a, highByte a], [0xE1, b], [0xF1, b]]) ∧
  (∀ (i : Instr) (s : State), i.mnemonic = .sbc → Readable i.operand s →
    ∃ (m r p : Byte) (t : State),
      loadPlace (resolve i.operand s).place s = .ok m t ∧ ReadEffect s t ∧
      exec i s = .next { t with cpu := { s.cpu with a := r, p := p, stall := s.cpu.stall + restCycles i s } } ∧
      (r.toNat : Int) = ((s.cpu.a.toNat : Int) - m.toNat - (1 - (getFlag .c s.cpu.p).toNat)) % 256 ∧
      getFlag .c p = decide (m.toNat + (1 - (getFlag .c s.cpu.p).toNat) ≤ s.cpu.a.toNat) ∧
      getFlag .v p = decide (s.cpu.a.toInt - m.toInt - (1 - (getFlag .c s.cpu.p).toNat) < -128 ∨
        127 < s.cpu.a.toInt - m.toInt - (1 - (getFlag .c s.cpu.p).toNat)) ∧
      getFlag .z p = decide (r = 0) ∧ getFlag .n p = r.getLsbD 7 ∧
      ∀ k ∈ [2, 3, 4, 5], p.getLsbD k = s.cpu.p.getLsbD k) ∧
  (∀ (i : Instr) (s : State) (a : Addr), i.mnemonic = .sbc → (resolve i.operand s).place = .mem a →
    disabled a = true → exec i s = .next { s with cpu := { s.cpu with fault := some (.invalidAddress a) } })

/-- Writing D before an ADC or an SBC has the same outcome as writing it after: the result, the other flags, the cycles
and every other part of the state do not depend on D.
(R28, R112) -/
def Obligations.DecimalFlagChangesNoArithmetic : Prop :=
  ∀ (i : Instr) (d : Bool) (s t : State), (i.mnemonic = .adc ∨ i.mnemonic = .sbc) → exec i s = .next t →
    exec i (s.putF .d d) = .next (t.putF .d d)

/-- For every form whose operand is readable, A becomes A and, or, exclusive-or the byte read once, P becomes SetZN of
the new A, the cycles are counted, and apart from the read's own device effects nothing else changes.
(R116, R117, R118) -/
def Obligations.LogicComplete : Prop :=
  ∀ (i : Instr) (s : State), Readable i.operand s →
    (i.mnemonic = .and → ReadsThen i (fun m c => { c with a := c.a &&& m, p := setZN (c.a &&& m) c.p }) s) ∧
    (i.mnemonic = .ora → ReadsThen i (fun m c => { c with a := c.a ||| m, p := setZN (c.a ||| m) c.p }) s) ∧
    (i.mnemonic = .eor → ReadsThen i (fun m c => { c with a := c.a ^^^ m, p := setZN (c.a ^^^ m) c.p }) s)

/-- For both forms of BIT whose operand is readable, only P changes beside the read's own effects and the cycles: bit 7
(N) and bit 6 (V) are the operand's, bit 1 (Z) says whether A and M is 0, and the other five bits are kept.
(R119) -/
def Obligations.BitComplete : Prop :=
  ∀ (i : Instr) (s : State), i.mnemonic = .bit → Readable i.operand s →
    ∃ (m p : Byte) (t : State), loadPlace (resolve i.operand s).place s = .ok m t ∧ ReadEffect s t ∧
      exec i s = .next { t with cpu := { s.cpu with p := p, stall := s.cpu.stall + restCycles i s } } ∧
      ∀ k, k < 8 → p.getLsbD k =
        if k = 7 then m.getLsbD 7 else if k = 6 then m.getLsbD 6 else if k = 1 then decide (s.cpu.a &&& m = 0)
        else s.cpu.p.getLsbD k

/-- For every form whose operand is readable, with r the register compared: bit 0 (C) says whether r >= M unsigned, bit
1 (Z) whether r = M, bit 7 (N) is bit 7 of r - M modulo 256; V, I, D, B and bit 5 are kept, no register changes, the
cycles are counted, and apart from the read's own effects nothing else changes.
(R120, R121, R122) -/
def Obligations.ComparesComplete : Prop :=
  ∀ (i : Instr) (r : Byte) (s : State), Readable i.operand s →
    (i.mnemonic = .cmp ∧ r = s.cpu.a) ∨ (i.mnemonic = .cpx ∧ r = s.cpu.x) ∨ (i.mnemonic = .cpy ∧ r = s.cpu.y) →
    ∃ (m p : Byte) (t : State), loadPlace (resolve i.operand s).place s = .ok m t ∧ ReadEffect s t ∧
      exec i s = .next { t with cpu := { s.cpu with p := p, stall := s.cpu.stall + restCycles i s } } ∧
      ∀ k, k < 8 → p.getLsbD k =
        if k = 0 then decide (m.toNat ≤ r.toNat) else if k = 1 then decide (r = m)
        else if k = 7 then decide (128 ≤ (256 + r.toNat - m.toNat) % 256) else s.cpu.p.getLsbD k

/-- For every memory form whose address is not disabled (and whose write does not start a DMA from page 0x40): one bus
read of the resolved address, the carry of the shift, one bus write of the result there, Z and N of the result, the
base cycles with no page penalty; no other register, no other stored byte.
(R124, R125, R131, R132, R133, R134, R60) -/
def Obligations.ReadModifyWritesComplete : Prop :=
  ∀ (i : Instr) (s : State), MemoriesWf s →
    (i.mnemonic = .inc → Modifiable i incOf s → ModifiesByte i incOf s) ∧
    (i.mnemonic = .dec → Modifiable i decOf s → ModifiesByte i decOf s) ∧
    (i.mnemonic = .asl → Modifiable i aslOf s → ModifiesByte i aslOf s) ∧
    (i.mnemonic = .lsr → Modifiable i lsrOf s → ModifiesByte i lsrOf s) ∧
    (i.mnemonic = .rol → Modifiable i rolOf s → ModifiesByte i rolOf s) ∧
    (i.mnemonic = .ror → Modifiable i rorOf s → ModifiesByte i rorOf s)

/-- INC and DEC add and subtract 1 modulo 256 and compute no carry; ASL doubles modulo 256, ROL doubles and adds the
carry, both with carry out 128 <= m; LSR halves, ROR halves and adds 128 times the carry, both with carry out the
parity of m.
(R124, R125, R131, R132, R133, R134) -/
def Obligations.ShiftResultsAsNumbers : Prop :=
  ∀ (m : Byte) (c : Bool),
    ((incOf m c).value.toNat = (m.toNat + 1) % 256 ∧ (incOf m c).carry = none) ∧
    ((decOf m c).value.toNat = (m.toNat + 255) % 256 ∧ (decOf m c).carry = none) ∧
    ((aslOf m c).value.toNat = 2 * m.toNat % 256 ∧ (aslOf m c).carry = some (decide (128 ≤ m.toNat))) ∧
    ((lsrOf m c).value.toNat = m.toNat / 2 ∧ (lsrOf m c).carry = some (decide (m.toNat % 2 = 1))) ∧
    ((rolOf m c).value.toNat = 2 * m.toNat % 256 + c.toNat ∧ (rolOf m c).carry = some (decide (128 ≤ m.toNat))) ∧
    ((rorOf m c).value.toNat = m.toNat / 2 + 128 * c.toNat ∧ (rorOf m c).carry = some (decide (m.toNat % 2 = 1)))

/-- In every state INC at 0x2007 answers a next state whose video pointer is advanced by 2 (or 64, with PPUCTRL bit 2
set) modulo 0x10000, A, X and Y unchanged.
(R124, R60, R237) -/
def Obligations.IncOfPpuDataAdvancesTwice : Prop :=
  ∀ s : State, ∃ t, exec (.incAbs 0x2007) s = .next t ∧
    t.ppu.vaddr.toNat = (s.ppu.vaddr.toNat + (if s.ppu.ctrl.getLsbD 2 then 64 else 2)) % 0x10000 ∧
    t.cpu.a = s.cpu.a ∧ t.cpu.x = s.cpu.x ∧ t.cpu.y = s.cpu.y ∧ t.ram = s.ram ∧ t.prgRam = s.prgRam

/-- JMP absolute makes PC the operand and changes nothing else but two stall cycles. JMP indirect, with neither pointer
byte in the disabled range, reads the low byte at the pointer and then the high byte at the next address of the same
page (256 times the page plus the low byte plus 1 modulo 256), makes PC that word, adds four stall cycles, and
changes nothing else but the reads' own effects; a pointer byte in the disabled range raises InvalidAddress with its
address, after the low byte's read where it is the second.
(R136, R84, R85) -/
def Obligations.JumpsComplete : Prop :=
  (∀ (a : Addr) (s : State), OnlyCpu (.jmpAbs a) { s.cpu with pc := a } s) ∧
  (∀ (a : Addr) (s : State), ∃ h : Addr, h.toNat = a.toNat / 256 * 256 + (a.toNat % 256 + 1) % 256 ∧
    (disabled a = false → disabled h = false →
      ∃ lo hi s1 s2, busRead a s = .ok lo s1 ∧ busRead h s1 = .ok hi s2 ∧ ReadEffect s s2 ∧
        exec (.jmpInd a) s = .next { s2 with cpu := { s.cpu with pc := pair hi lo, stall := s.cpu.stall + 4 } }) ∧
    (disabled a = true →
      exec (.jmpInd a) s = .next { s with cpu := { s.cpu with fault := some (.invalidAddress a) } }) ∧
    (disabled a = false → disabled h = true → ∃ lo s1, busRead a s = .ok lo s1 ∧
      exec (.jmpInd a) s = .next { s1 with cpu := { s.cpu with fault := some (.invalidAddress h) } }))

/-- JSR is encoded as 0x20 and its target, low byte first. With PC past the JSR, exec writes the high byte of PC - 1 at
0x0100 + S and the low byte at 0x0100 + (S - 1), makes S two less (wrapping in the page), PC the operand, adds five
stall cycles, and changes no flag, no other RAM byte and nothing else.
(R137) -/
def Obligations.JsrPushesAndJumps : Prop :=
  ∀ (a : Addr) (s : State), MemoriesWf s → encode (.jsr a) = [0x20, lowByte a, highByte a] ∧
    ∃ t, exec (.jsr a) s = .next t ∧
      stackByte s.cpu.s t = highByte (s.cpu.pc - 1) ∧ stackByte (s.cpu.s - 1) t = lowByte (s.cpu.pc - 1) ∧
      (∀ k, k ≠ 0x100 + s.cpu.s.toNat → k ≠ 0x100 + (s.cpu.s - 1).toNat →
        Memory.read t.ram k = Memory.read s.ram k) ∧
      t = { s with ram := t.ram
                   cpu := { s.cpu with s := s.cpu.s - 2, pc := a, stall := s.cpu.stall + 5 } }

/-- RTS, encoded as 0x60, makes PC the word at S + 1 (low) and S + 2 (high) of the stack page plus 1 modulo 65536, S two
more (wrapping in the page), adds five stall cycles and changes nothing else; after a JSR that leaves S and the
stacked bytes alone it returns to the instruction after the JSR, for every target.
(R138) -/
def Obligations.RtsPullsAndIncrements : Prop :=
  encode .rts = [0x60] ∧
  (∀ s : State, OnlyCpu .rts { s.cpu with s := s.cpu.s + 2
                                          pc := pair (stackByte (s.cpu.s + 2) s) (stackByte (s.cpu.s + 1) s) + 1 } s) ∧
  (∀ (a : Addr) (s t u : State), MemoriesWf s → exec (.jsr a) s = .next t → u.cpu.s = t.cpu.s →
    stackByte s.cpu.s u = stackByte s.cpu.s t → stackByte (s.cpu.s - 1) u = stackByte (s.cpu.s - 1) t →
    ∃ w, exec .rts u = .next w ∧ w.cpu.pc = s.cpu.pc ∧ w.cpu.s = s.cpu.s ∧ w.cpu.p = u.cpu.p)

/-- For the eight branches with their flag and sense: not taken adds one stall cycle and changes nothing else; taken
makes PC the PC past the branch plus the signed offset modulo 65536, with two stall cycles, or three if the target's
page differs from that PC's; nothing else changes.
(R139, R140, R141, R142, R143, R144, R145, R146, R147) -/
def Obligations.BranchesComplete : Prop :=
  ∀ (off : Byte) (s : State), ∀ bc ∈
    [(Instr.bcc off, !s.cpu.p.getLsbD 0), (.bcs off, s.cpu.p.getLsbD 0), (.bne off, !s.cpu.p.getLsbD 1),
     (.beq off, s.cpu.p.getLsbD 1), (.bpl off, !s.cpu.p.getLsbD 7), (.bmi off, s.cpu.p.getLsbD 7),
     (.bvc off, !s.cpu.p.getLsbD 6), (.bvs off, s.cpu.p.getLsbD 6)],
    (bc.2 = false → exec bc.1 s = .next { s with cpu := { s.cpu with stall := s.cpu.stall + 1 } }) ∧
    (bc.2 = true → ∃ target : Addr, (target.toNat : Int) = (s.cpu.pc.toNat + off.toInt) % 65536 ∧
      exec bc.1 s = .next { s with cpu := { s.cpu with pc := target, stall := s.cpu.stall +
        (if s.cpu.pc.toNat / 256 = target.toNat / 256 then 2 else 3) } })

/-- In every state in form BRK answers the state an entry through 0xFFFE leaves with the return address PC + 1 (PC being
past the opcode): that address and P with bits 5, 4 and 2 set on the stack, S down by 3, I set, PC from the vector,
six stall cycles added, nothing else changed.
(R149, R165) -/
def Obligations.BrkEntersThroughIrqVector : Prop :=
  ∀ s : State, MemoriesWf s →
    ∃ t, exec .brk s = .next t ∧ Entered 0xFFFE (s.cpu.pc + 1) s t ∧ t.cpu.stall = s.cpu.stall + 6

/-- RTI makes P the byte at S + 1 of the stack page with bit 4 cleared and bit 5 set, PC the word at S + 2 (low) and S +
3 (high), S three more (wrapping), adds five stall cycles and changes nothing else.
(R150) -/
def Obligations.RtiRestoresStatusAndPc : Prop :=
  ∀ s : State, ∃ p : Byte,
    OnlyCpu .rti { s.cpu with s := s.cpu.s + 3, p := p
                              pc := pair (stackByte (s.cpu.s + 3) s) (stackByte (s.cpu.s + 2) s) } s ∧
    ∀ k, k < 8 → p.getLsbD k =
      if k = 4 then false else if k = 5 then true else (stackByte (s.cpu.s + 1) s).getLsbD k

/-- In every state each of them answers the state with its one bit of P cleared or set, one stall cycle added and
nothing else changed; NOP changes only stall.
(R151, R152, R153, R154, R155, R156, R157, R158) -/
def Obligations.FlagInstructionsComplete : Prop :=
  ∀ s : State,
    OnlyCpu .clc { s.cpu with p := s.cpu.p &&& 0xFE } s ∧ OnlyCpu .sec { s.cpu with p := s.cpu.p ||| 0x01 } s ∧
    OnlyCpu .cli { s.cpu with p := s.cpu.p &&& 0xFB } s ∧ OnlyCpu .sei { s.cpu with p := s.cpu.p ||| 0x04 } s ∧
    OnlyCpu .cld { s.cpu with p := s.cpu.p &&& 0xF7 } s ∧ OnlyCpu .sed { s.cpu with p := s.cpu.p ||| 0x08 } s ∧
    OnlyCpu .clv { s.cpu with p := s.cpu.p &&& 0xBF } s ∧ OnlyCpu .nop s.cpu s

/-- At every mirror of 0x2002 the read returns vbl, spr0 and ovf in bits 7, 6 and 5 and the low five bits of the open-
bus draw, clears vbl and w, counts the draw, and changes nothing else: a requested NMI, spr0 and ovf stay. A write
there changes nothing.
(R179) -/
def Obligations.PpuStatusRead : Prop :=
  ∀ (a : Addr) (s : State), 0x2000 ≤ a.toNat → a.toNat < 0x4000 → a.toNat % 8 = 2 →
    (∃ r : Byte, busRead a s = .ok r { s with ppu := { s.ppu with vbl := false, w := false }, draws := s.draws + 1 } ∧
      r.getLsbD 7 = s.ppu.vbl ∧ r.getLsbD 6 = s.ppu.spr0 ∧ r.getLsbD 5 = s.ppu.ovf ∧
      ∀ k, k < 5 → r.getLsbD k = (Config.openBus s.draws).getLsbD k) ∧
    ∀ v : Byte, busWrite a v s = .ok () s

/-- With w = 0 a PPUSCROLL write latches X and a PPUADDR write the high byte of the pointer, each setting w; with w = 1
they latch Y and the low byte, each clearing w; nothing else changes. Writing PPUADDR twice, reading status and
writing it once more latches the high byte.
(R183, R184, R196) -/
def Obligations.ScrollAndAddressShareTheToggle : Prop :=
  (∀ (v : Byte) (s : State), s.ppu.w = false →
    busWrite 0x2005 v s = .ok () { s with ppu := { s.ppu with scrollX := v, w := true } } ∧
    busWrite 0x2006 v s = .ok () { s with ppu := { s.ppu with vaddr := pair v (lowByte s.ppu.vaddr), w := true } }) ∧
  (∀ (v : Byte) (s : State), s.ppu.w = true →
    busWrite 0x2005 v s = .ok () { s with ppu := { s.ppu with scrollY := v, w := false } } ∧
    busWrite 0x2006 v s = .ok () { s with ppu := { s.ppu with vaddr := pair (highByte s.ppu.vaddr) v, w := false } }) ∧
  (∀ (x y z r : Byte) (s s1 s2 s3 s4 : State), busWrite 0x2006 x s = .ok () s1 → busWrite 0x2006 y s1 = .ok () s2 →
    busRead 0x2002 s2 = .ok r s3 → busWrite 0x2006 z s3 = .ok () s4 →
    highByte s4.ppu.vaddr = z ∧ lowByte s4.ppu.vaddr = lowByte s2.ppu.vaddr ∧ s4.ppu.w = true)

/-- With d the pointer modulo 0x4000: a read below 0x3F00 returns the buffer and refills it with the video byte at d; a
read at or above 0x3F00 returns the palette byte and keeps the buffer; a write puts the byte on the video bus at d
and keeps the buffer; each advances the pointer by 1, or by 32 with PPUCTRL bit 2, modulo 0x10000, and changes
nothing else.
(R185, R186, R177) -/
def Obligations.PpuDataPort : Prop :=
  ∀ (v : Byte) (s : State), ∃ next : BitVec 16,
    next.toNat = (s.ppu.vaddr.toNat + (if s.ppu.ctrl.getLsbD 2 then 32 else 1)) % 0x10000 ∧
    (s.ppu.vaddr.toNat % 0x4000 < 0x3F00 →
      busRead 0x2007 s = .ok s.ppu.rbuf
        { s with ppu := { s.ppu with rbuf := vread s (s.ppu.vaddr.toNat % 0x4000), vaddr := next } }) ∧
    (0x3F00 ≤ s.ppu.vaddr.toNat % 0x4000 →
      busRead 0x2007 s = .ok (vread s (s.ppu.vaddr.toNat % 0x4000)) { s with ppu := { s.ppu with vaddr := next } }) ∧
    (∃ t, t = vwrite (s.ppu.vaddr.toNat % 0x4000) v s ∧
      busWrite 0x2007 v s = .ok () { t with ppu := { t.ppu with vaddr := next } } ∧ t.ppu.rbuf = s.ppu.rbuf)

/-- A video read gives the byte that R52-R55 name for the address (cells written out there as numbers: CHR ROM repeated,
CHR RAM, nametable RAM by mirroring mode, palette with one entry 0), and changes nothing. In a state in form a write
reads back at every address of its cell, unless that is CHR ROM, leaves every other cell's byte, and changes nothing
outside CHR RAM, nametable RAM and palette; with CHR ROM a write in pattern space changes nothing; with CHR RAM it
reads back there. A nametable byte reads back at its address, 0x1000 higher while that is below 0x3F00, and at
0x2000/0x2800 alike when vertical, 0x2000/0x2400 alike when horizontal; a palette byte written at 0x3F00 + i reads
back there and 32 higher, and entry 0 of every block is the same byte. A loaded cartridge is four-screen if bit 3 of
header byte 6 is set, otherwise vertical if bit 0 is, otherwise horizontal.
(R46, R52, R53, R54, R55) -/
def Obligations.VideoMirrors : Prop :=
  (∀ (o : Nat) (v : Byte) (s : State), MemoriesWf s → o < 0x1000 →
    vread (vwrite (0x2000 + o) v s) (0x2000 + o) = v ∧
    (o < 0xF00 → vread (vwrite (0x2000 + o) v s) (0x3000 + o) = v)) ∧
  (∀ (o : Nat) (s : State), s.cart.mirroring = .vertical → o < 0x800 → vread s (0x2000 + o) = vread s (0x2800 + o)) ∧
  (∀ (o : Nat) (s : State), s.cart.mirroring = .horizontal → o < 0x400 →
    vread s (0x2000 + o) = vread s (0x2400 + o) ∧ vread s (0x2800 + o) = vread s (0x2C00 + o)) ∧
  (∀ (i j : Nat) (v : Byte) (s : State), MemoriesWf s → i < 32 → j < 8 →
    vread (vwrite (0x3F00 + i) v s) (0x3F00 + 32 * j + i) = v ∧
    (i % 4 = 0 → vread (vwrite (0x3F00 + i) v s) (0x3F00 + 4 * j) = v)) ∧
  (∀ (a : Nat) (s : State), vread s a = videoByte s (videoCell s.cart a)) ∧
  (∀ (a b : Nat) (v : Byte) (s : State), MemoriesWf s →
    (videoCell s.cart b ≠ videoCell s.cart a → vread (vwrite a v s) b = vread s b) ∧
    (videoCell s.cart b = videoCell s.cart a → s.cart.chrUnits = 0 ∨ 0x2000 ≤ a % 0x4000 →
      vread (vwrite a v s) b = v)) ∧
  (∀ (a : Nat) (v : Byte) (s : State), a % 0x4000 < 0x2000 →
    (s.cart.chrUnits ≠ 0 → vwrite a v s = s ∧
      vread s a = Memory.read s.cart.chr (a % 0x4000 % (8192 * s.cart.chrUnits))) ∧
    (s.cart.chrUnits = 0 → MemoriesWf s → vread (vwrite a v s) a = v)) ∧
  (∀ (a : Nat) (v : Byte) (s : State), ∃ t, t = vwrite a v s ∧
    t = { s with chrRam := t.chrRam, vram := t.vram, ppu := { s.ppu with palette := t.ppu.palette } }) ∧
  (∀ (image : List Byte) (c : Cart), loadCart image = .ok c → c.mirroring =
    if (image.getD 6 0).getLsbD 3 then .fourScreen else if (image.getD 6 0).getLsbD 0 then .vertical else .horizontal)

/-- An OAMADDR write sets the address; an OAMDATA read returns the byte there and changes nothing; an OAMDATA write in a
state in form stores the byte there, keeps every other OAM byte, advances the address modulo 256 and changes nothing
else.
(R180, R181, R182) -/
def Obligations.OamDataPort : Prop :=
  ∀ (v : Byte) (s : State),
    busWrite 0x2003 v s = .ok () { s with ppu := { s.ppu with oamAddr := v } } ∧
    busRead 0x2004 s = .ok (Memory.read s.ppu.oam s.ppu.oamAddr.toNat) s ∧
    (Memory.wf 256 s.ppu.oam = true → ∃ oam, busWrite 0x2004 v s =
        .ok () { s with ppu := { s.ppu with oam := oam, oamAddr := s.ppu.oamAddr + 1 } } ∧
      Memory.read oam s.ppu.oamAddr.toNat = v ∧
      ∀ k, k ≠ s.ppu.oamAddr.toNat → Memory.read oam k = Memory.read s.ppu.oam k)

/-- A PPUCTRL write sets ctrl, and latches an NMI exactly if bit 7 goes from 0 to 1 while vbl is 1; the latch is never
withdrawn by the write. A PPU step at (240, 0) sets vbl, counts a frame (the count out.frames is the model's: log
7), and latches an NMI exactly if ctrl bit 7 is 1 or one was latched; a step anywhere else leaves the latch alone.
(R187, R189, R190) -/
def Obligations.NmiRequests : Prop :=
  (∀ (v : Byte) (s : State), busWrite 0x2000 v s =
    .ok () { s with ppu := { s.ppu with ctrl := v }
                    cpu := { s.cpu with nmiPending := s.cpu.nmiPending ||
                      (!s.ppu.ctrl.getLsbD 7 && v.getLsbD 7 && s.ppu.vbl) } }) ∧
  (∀ s : State, s.ppu.scanline = 240 → s.ppu.dot = 0 →
    (ppuStep s).ppu.vbl = true ∧ (ppuStep s).out.frames = s.out.frames + 1 ∧
    (ppuStep s).cpu.nmiPending = (s.cpu.nmiPending || s.ppu.ctrl.getLsbD 7)) ∧
  (∀ s : State, ¬(s.ppu.scanline = 240 ∧ s.ppu.dot = 0) → (ppuStep s).cpu.nmiPending = s.cpu.nmiPending)

/-- A PPU step at (261, 1) clears the three bits; elsewhere vbl changes only at (240, 0), spr0 is set only at dots 1-256
of scanlines 0-239 with background and sprites both enabled, and ovf only at dot 257 of scanlines 0-239 with
rendering enabled; neither is cleared elsewhere. At dot x + 1 of those, spr0 is set afterwards exactly if it was or
background and sprites are enabled, x is not 255, neither is hidden there (x < 8 with PPUMASK bit 1 or 2 clear), the
background pixel at (x, scanline) is opaque and sprite 0 has a pixel there, behind or not. At dot 257 ovf is set
afterwards exactly if it was or rendering is enabled and more than 8 of the 64 OAM entries have Y <= scanline < Y +
height, 16 with PPUCTRL bit 5 and else 8.
(R187, R194, R195) -/
def Obligations.StatusBitsClearOnPreRender : Prop :=
  ∀ s : State,
    (s.ppu.scanline = 261 → s.ppu.dot = 1 →
      (ppuStep s).ppu.vbl = false ∧ (ppuStep s).ppu.spr0 = false ∧ (ppuStep s).ppu.ovf = false) ∧
    (¬(s.ppu.scanline = 261 ∧ s.ppu.dot = 1) → ¬(s.ppu.scanline = 240 ∧ s.ppu.dot = 0) →
      (ppuStep s).ppu.vbl = s.ppu.vbl) ∧
    (¬(s.ppu.scanline = 261 ∧ s.ppu.dot = 1) → s.ppu.spr0 = true → (ppuStep s).ppu.spr0 = true) ∧
    (s.ppu.spr0 = false → (ppuStep s).ppu.spr0 = true → s.ppu.scanline ≤ 239 ∧ 1 ≤ s.ppu.dot ∧ s.ppu.dot ≤ 256 ∧
      s.ppu.mask.getLsbD 3 = true ∧ s.ppu.mask.getLsbD 4 = true) ∧
    (¬(s.ppu.scanline = 261 ∧ s.ppu.dot = 1) → s.ppu.ovf = true → (ppuStep s).ppu.ovf = true) ∧
    (s.ppu.ovf = false → (ppuStep s).ppu.ovf = true → s.ppu.scanline ≤ 239 ∧ s.ppu.dot = 257 ∧
      (s.ppu.mask.getLsbD 3 = true ∨ s.ppu.mask.getLsbD 4 = true)) ∧
    (∀ x, s.ppu.scanline ≤ 239 → s.ppu.dot = x + 1 → x < 256 →
      ((ppuStep s).ppu.spr0 = true ↔ s.ppu.spr0 = true ∨
        (s.ppu.mask.getLsbD 3 = true ∧ s.ppu.mask.getLsbD 4 = true ∧ x ≠ 255 ∧
          ¬(x < 8 ∧ (s.ppu.mask.getLsbD 1 = false ∨ s.ppu.mask.getLsbD 2 = false)) ∧
          bgPixel s x s.ppu.scanline ≠ 0 ∧ ∃ sp, sprPixelOf s 0 x s.ppu.scanline = some sp))) ∧
    (s.ppu.scanline ≤ 239 → s.ppu.dot = 257 →
      ((ppuStep s).ppu.ovf = true ↔ s.ppu.ovf = true ∨
        ((s.ppu.mask.getLsbD 3 = true ∨ s.ppu.mask.getLsbD 4 = true) ∧
          8 < ((List.range 64).filter fun i => decide ((Memory.read s.ppu.oam (4 * i)).toNat ≤ s.ppu.scanline ∧
            s.ppu.scanline < (Memory.read s.ppu.oam (4 * i)).toNat +
              (if s.ppu.ctrl.getLsbD 5 then 16 else 8))).length)))

/-- A PPU step at (240, 0) delivers 61440 pixels, pixel (x, y) at place 256y + x, and counts one frame (out is the
model's: log 7). A pixel is the 6-bit palette byte, masked to 0x30 in greyscale: entry 0 in forced blank or where
nothing is opaque; the sprite's where it is in front or the background is transparent; the background's otherwise. A
background offset is 0 where hidden; else, at the scrolled position in 512 x 480, the colour of the tile the
nametable names, with the sub-palette of its quadrant, or 0. Sprite i has no pixel outside its 8 x 8 or 8 x 16 box
one line below Y, nor with Y 239 or more; inside, it is its tile's pixel after the flips (8 x 16: table from tile
bit 0, lower half the next tile), none for colour 0, with its sub-palette and behind flag. The sprite shown is the
opaque one of lowest index, none where hidden. A sprite offset lies in 17 to 31 and is no multiple of 4, a
background offset below 16.
(R190, R191, R192, R193, R228) -/
def Obligations.FrameIsDelivered : Prop :=
  (∀ s : State, s.ppu.scanline = 240 → s.ppu.dot = 0 → (ppuStep s).out.frames = s.out.frames + 1 ∧
    (ppuStep s).out.image.length = 61440 ∧
    ∀ x y, x < 256 → y < 240 → (ppuStep s).out.image[256 * y + x]? = some (pixelOut s x y)) ∧
  (∀ (s : State) (x y : Nat), ∃ v : Byte,
    pixelOut s x y = (if s.ppu.mask.getLsbD 0 then v.setWidth 6 &&& 0x30 else v.setWidth 6) ∧
    (s.ppu.mask.getLsbD 3 = false → s.ppu.mask.getLsbD 4 = false → v = Memory.read s.ppu.palette 0) ∧
    (s.ppu.mask.getLsbD 3 = true ∨ s.ppu.mask.getLsbD 4 = true →
      (bgPixel s x y = 0 → sprPixel s x y = none → v = Memory.read s.ppu.palette 0) ∧
      (bgPixel s x y ≠ 0 → sprPixel s x y = none → v = vread s (0x3F00 + bgPixel s x y)) ∧
      (∀ sp, sprPixel s x y = some sp → (bgPixel s x y = 0 ∨ sp.behind = false → v = vread s (0x3F00 + sp.idx)) ∧
        (bgPixel s x y ≠ 0 → sp.behind = true → v = vread s (0x3F00 + bgPixel s x y)))) ∧
    bgPixel s x y < 16 ∧ ∀ sp, sprPixel s x y = some sp → 16 < sp.idx ∧ sp.idx < 32 ∧ sp.idx % 4 ≠ 0) ∧
  (∀ (s : State) (x y : Nat),
    (s.ppu.mask.getLsbD 3 = false ∨ (x < 8 ∧ s.ppu.mask.getLsbD 1 = false) → bgPixel s x y = 0) ∧
    (s.ppu.mask.getLsbD 3 = true → 8 ≤ x ∨ s.ppu.mask.getLsbD 1 = true → ∃ (wx wy table c : Nat) (attr : Byte),
      wx = (x + s.ppu.scrollX.toNat + (if s.ppu.ctrl.getLsbD 0 then 256 else 0)) % 512 ∧
      wy = (y + s.ppu.scrollY.toNat + (if s.ppu.ctrl.getLsbD 1 then 240 else 0)) % 480 ∧
      table = 0x2000 + 0x400 * (wx / 256) + 0x800 * (wy / 240) ∧
      c = tilePixel s (if s.ppu.ctrl.getLsbD 4 then 0x1000 else 0)
        (vread s (table + 32 * (wy % 240 / 8) + wx % 256 / 8)).toNat (wy % 240 % 8) (7 - wx % 8) ∧
      attr = vread s (table + 0x3C0 + 8 * (wy % 240 / 32) + wx % 256 / 32) ∧
      bgPixel s x y =
        if c = 0 then 0 else 4 * (attr.toNat / 4 ^ (2 * (wy % 240 / 16 % 2) + wx % 256 / 16 % 2) % 4) + c)) ∧
  (∀ (s : State) (i x y : Nat), ∃ (top tile left h : Nat) (attr : Byte),
    top = (Memory.read s.ppu.oam (4 * i)).toNat ∧ tile = (Memory.read s.ppu.oam (4 * i + 1)).toNat ∧
    attr = Memory.read s.ppu.oam (4 * i + 2) ∧ left = (Memory.read s.ppu.oam (4 * i + 3)).toNat ∧
    h = (if s.ppu.ctrl.getLsbD 5 then 16 else 8) ∧
    (239 ≤ top ∨ y ≤ top ∨ top + h < y ∨ x < left ∨ left + 8 ≤ x → sprPixelOf s i x y = none) ∧
    (∀ dx dy, top < 239 → dx < 8 → dy < h → x = left + dx → y = top + 1 + dy → ∃ row b k : Nat,
      row = (if attr.getLsbD 7 then h - 1 - dy else dy) ∧ b = (if attr.getLsbD 6 then dx else 7 - dx) ∧
      k = (if s.ppu.ctrl.getLsbD 5 then
          tilePixel s (if tile % 2 = 1 then 0x1000 else 0) (2 * (tile / 2) + row / 8) (row % 8) b
        else tilePixel s (if s.ppu.ctrl.getLsbD 3 then 0x1000 else 0) tile row b) ∧
      sprPixelOf s i x y =
        if k = 0 then none else some ⟨16 + 4 * (attr.toNat % 4) + k, attr.getLsbD 5⟩)) ∧
  (∀ (s : State) (x y : Nat),
    (s.ppu.mask.getLsbD 4 = false ∨ (x < 8 ∧ s.ppu.mask.getLsbD 2 = false) → sprPixel s x y = none) ∧
    (s.ppu.mask.getLsbD 4 = true → 8 ≤ x ∨ s.ppu.mask.getLsbD 2 = true → ∀ sp,
      (sprPixel s x y = some sp ↔
        ∃ i, i < 64 ∧ sprPixelOf s i x y = some sp ∧ ∀ j, j < i → sprPixelOf s j x y = none)))

/-- From every position inside the frame, n steps move the position 341 times scanline plus dot by n modulo 89342, so
that 89342 steps return to it and no smaller positive number of steps does, and no step leaves the frame.
(R187, R188, R9) -/
def Obligations.FrameIs89342Dots : Prop :=
  ∀ (n : Nat) (s : State), s.ppu.scanline < 262 → s.ppu.dot < 341 →
    (ppuSteps n s).ppu.scanline < 262 ∧ (ppuSteps n s).ppu.dot < 341 ∧
    (ppuSteps n s).ppu.scanline * 341 + (ppuSteps n s).ppu.dot = (s.ppu.scanline * 341 + s.ppu.dot + n) % 89342 ∧
    ((ppuSteps n s).ppu.scanline = s.ppu.scanline ∧ (ppuSteps n s).ppu.dot = s.ppu.dot ↔ n % 89342 = 0)

/-- Writing 0x4003 with pulse 1 enabled loads the entry at bits 7:3 of the 32 values of R199, written out, disabled it
loads 0; clearing the enable bit at 0x4015 makes the counter 0; the other pulse is not touched. The same for 0x4007,
0x400B and 0x400F and their channels. One sequencer step counts each counter that is not 0 and not halted down by 1
exactly at count 14913 and at the last step, 29829 or in 5-step mode 37281, and leaves it otherwise; a 0x4017 write
does so exactly if its bit 7 is set. A channel whose counter is 0 has level 0.
(R199, R201, R203, R204, R206, R209, R212, R215) -/
def Obligations.LengthCounterLoads : Prop :=
  (∀ (v w : Byte) (s : State), ∃ lengths : List (BitVec 8),
    lengths = [10, 254, 20, 2, 40, 4, 80, 6, 160, 8, 60, 10, 14, 12, 26, 14,
      12, 16, 24, 18, 48, 20, 96, 22, 192, 24, 72, 26, 16, 28, 32, 30] ∧
    (∃ t, busWrite 0x4003 v s = .ok () t ∧ t.apu.p2 = s.apu.p2 ∧
      some t.apu.p1.len = if s.apu.enP1 then lengths[v.toNat / 8]? else some 0) ∧
    (∃ t, busWrite 0x4007 v s = .ok () t ∧ t.apu.p1 = s.apu.p1 ∧
      some t.apu.p2.len = if s.apu.enP2 then lengths[v.toNat / 8]? else some 0) ∧
    (∃ t, busWrite 0x400B v s = .ok () t ∧ t.apu.noise = s.apu.noise ∧
      some t.apu.tri.len = if s.apu.enTri then lengths[v.toNat / 8]? else some 0) ∧
    (∃ t, busWrite 0x400F v s = .ok () t ∧ t.apu.tri = s.apu.tri ∧
      some t.apu.noise.len = if s.apu.enNoise then lengths[v.toNat / 8]? else some 0) ∧
    (∃ t, busWrite 0x4015 w s = .ok () t ∧ t = s.setApu t.apu ∧
      t.apu.p1.len = (if w.getLsbD 0 then s.apu.p1.len else 0) ∧ t.apu.p2.len = (if w.getLsbD 1 then s.apu.p2.len else 0) ∧
      t.apu.tri.len = (if w.getLsbD 2 then s.apu.tri.len else 0) ∧
      t.apu.noise.len = (if w.getLsbD 3 then s.apu.noise.len else 0) ∧
      t.apu.enP1 = w.getLsbD 0 ∧ t.apu.enP2 = w.getLsbD 1 ∧ t.apu.enTri = w.getLsbD 2 ∧ t.apu.enNoise = w.getLsbD 3 ∧
      (w.getLsbD 4 = false → t.apu.dmc.bytesLeft = 0) ∧ t.apu.dmc.dmcIrq = false)) ∧
  (∀ s : State, LengthsClocked
    (decide (s.apu.fsCounter + 1 = 14913 ∨ s.apu.fsCounter + 1 = if s.apu.fsMode then 37281 else 29829))
    s.apu (frameSequencer s).apu) ∧
  (∀ (v : Byte) (s : State), ∃ t, busWrite 0x4017 v s = .ok () t ∧ LengthsClocked (v.getLsbD 7) s.apu t.apu) ∧
  (∀ a : Apu, (a.p1.len = 0 → (apuLevels a).pulse1 = 0) ∧ (a.p2.len = 0 → (apuLevels a).pulse2 = 0) ∧
    (a.tri.len = 0 → (apuLevels a).triangle = 0) ∧ (a.noise.len = 0 → (apuLevels a).noise = 0))

/-- The byte has bits 0-4 set exactly for non-empty pulse 1, pulse 2, triangle, noise and DMC, bit 5 from bit 0 of the
open-bus draw, bit 6 the frame-IRQ flag and bit 7 the DMC-IRQ flag; the read clears the frame-IRQ flag, counts the
draw, and changes nothing else, the CPU's IRQ latch included.
(R200) -/
def Obligations.ApuStatusRead : Prop :=
  ∀ s : State, ∃ r : Byte,
    busRead 0x4015 s = .ok r { s with apu := { s.apu with frameIrq := false }, draws := s.draws + 1 } ∧
    r.getLsbD 0 = decide (s.apu.p1.len ≠ 0) ∧ r.getLsbD 1 = decide (s.apu.p2.len ≠ 0) ∧
    r.getLsbD 2 = decide (s.apu.tri.len ≠ 0) ∧ r.getLsbD 3 = decide (s.apu.noise.len ≠ 0) ∧
    r.getLsbD 4 = decide (s.apu.dmc.bytesLeft ≠ 0) ∧ r.getLsbD 5 = (Config.openBus s.draws).getLsbD 0 ∧
    r.getLsbD 6 = s.apu.frameIrq ∧ r.getLsbD 7 = s.apu.dmc.dmcIrq

/-- A pulse channel is muted exactly if its period is below 8, or negation is off and period plus shifted period exceeds
0x7FF. A sweep clock changes the period only with the divider at 0, the sweep enabled, a non-zero shift and no
muting, and then to period plus, or minus, the shifted period, one less on pulse 1 when negated, exactly; the
divider reloads at 0 or on request and else counts down. A muted or expired channel has level 0.
(R208, R209) -/
def Obligations.SweepRetargetsOrMutes : Prop :=
  ∀ (id : PulseId) (p : Pulse), ∃ t c : Int, t = p.timerPeriod.toNat ∧ c = (p.timerPeriod.toNat / 2 ^ p.sweepShift.toNat : Nat) ∧
    (pulseMuted id p = true ↔ t < 8 ∨ (p.sweepNeg = false ∧ 0x7FF < t + c)) ∧
    (((sweepClock id p).timerPeriod.toNat : Int) =
      if p.sweepDiv = 0 ∧ p.sweepEn = true ∧ p.sweepShift ≠ 0 ∧ pulseMuted id p = false then
        if p.sweepNeg then (if id = .p1 then t - c - 1 else t - c) else t + c
      else t) ∧
    (sweepClock id p).sweepDiv = (if p.sweepDiv = 0 ∨ p.sweepReload = true then p.sweepPeriod else p.sweepDiv - 1) ∧
    (sweepClock id p).sweepReload = false ∧ (sweepClock id p).len = p.len ∧
    (p.len = 0 ∨ pulseMuted id p = true → pulseLevel id p = 0)

/-- One sequencer step sets the frame-IRQ flag exactly at count 29829 of 4-step mode without inhibit and never clears
it, and the IRQ latch becomes set by it exactly if the flag goes from 0 to 1; a 0x4017 write takes mode and inhibit
from bits 7 and 6, restarts the count, clears the flag if bit 6 is set, and leaves the IRQ latch.
(R203, R204, R218) -/
def Obligations.FrameIrqRequests : Prop :=
  (∀ s : State,
    (frameSequencer s).apu.frameIrq =
      (s.apu.frameIrq || (!s.apu.fsMode && decide (s.apu.fsCounter + 1 = 29829) && !s.apu.irqInhibit)) ∧
    (frameSequencer s).cpu.irqPending =
      (s.cpu.irqPending || (!s.apu.frameIrq && (frameSequencer s).apu.frameIrq))) ∧
  (∀ (v : Byte) (s : State), ∃ t, busWrite 0x4017 v s = .ok () t ∧ t = s.setApu t.apu ∧
    t.apu.fsMode = v.getLsbD 7 ∧ t.apu.irqInhibit = v.getLsbD 6 ∧ t.apu.fsCounter = 0 ∧
    t.apu.frameIrq = (s.apu.frameIrq && !v.getLsbD 6))

/-- With the buffer empty, bytes left and the address at 0x8000 or above, the reader puts the PRG ROM byte in the
buffer, marks it full and adds 4 to stall; with more bytes left it counts one off, moves the address on by 1, or
from 0xFFFF to 0x8000, and leaves the DMC-IRQ flag and the IRQ latch; at the last byte without loop it leaves 0
bytes, moves the address likewise, sets the flag exactly if it was set or its IRQ is enabled, and latches an IRQ
exactly if enabled and not already flagged; at the last byte with loop it restarts at 0xC000 + 64 times the address
register with 16 times the length register plus 1 bytes, flag and latch as before; nothing else changes. With a full
buffer or no bytes left it changes nothing.
(R217, R218, R231) -/
def Obligations.DmcReaderFetches : Prop :=
  (∀ s : State, s.apu.dmc.bufferEmpty = true → s.apu.dmc.bytesLeft ≠ 0 → 0x8000 ≤ s.apu.dmc.curAddr.toNat →
    ∃ t d, dmcReader s = .ok () t ∧ d = t.apu.dmc ∧
      t = { s with cpu := { s.cpu with stall := s.cpu.stall + 4, irqPending := t.cpu.irqPending }
                   apu := { s.apu with dmc :=
                     { s.apu.dmc with buffer := s.cart.readPrg s.apu.dmc.curAddr, bufferEmpty := false
                                      curAddr := d.curAddr, bytesLeft := d.bytesLeft, dmcIrq := d.dmcIrq } } } ∧
      (s.apu.dmc.bytesLeft ≠ 1 → d.bytesLeft = s.apu.dmc.bytesLeft - 1 ∧
        d.curAddr.toNat = (if s.apu.dmc.curAddr.toNat = 0xFFFF then 0x8000 else s.apu.dmc.curAddr.toNat + 1) ∧
        d.dmcIrq = s.apu.dmc.dmcIrq ∧ t.cpu.irqPending = s.cpu.irqPending) ∧
      (s.apu.dmc.bytesLeft = 1 → s.apu.dmc.loop = false → d.bytesLeft = 0 ∧
        d.curAddr.toNat = (if s.apu.dmc.curAddr.toNat = 0xFFFF then 0x8000 else s.apu.dmc.curAddr.toNat + 1) ∧
        d.dmcIrq = (s.apu.dmc.dmcIrq || s.apu.dmc.irqEn) ∧
        t.cpu.irqPending = (s.cpu.irqPending || (s.apu.dmc.irqEn && !s.apu.dmc.dmcIrq))) ∧
      (s.apu.dmc.bytesLeft = 1 → s.apu.dmc.loop = true →
        d.curAddr.toNat = 0xC000 + 64 * s.apu.dmc.sampleAddrReg.toNat ∧
        d.bytesLeft.toNat = 16 * s.apu.dmc.sampleLenReg.toNat + 1 ∧
        d.dmcIrq = s.apu.dmc.dmcIrq ∧ t.cpu.irqPending = s.cpu.irqPending)) ∧
  (∀ s : State, s.apu.dmc.bufferEmpty = false ∨ s.apu.dmc.bytesLeft = 0 → dmcReader s = .ok () s)

/-- Writing v below 0x20 or from 0x60 to 0x4014 in a state in form leaves byte i of page v at OAM index (oamAddr + i)
mod 256 for every i below 256, the OAM address as it was, stall increased by 513 plus 1 when the cycle count is odd,
and nothing else changed. Page 0x40 stops with InvalidAddress 0x4018.
(R221, R231) -/
def Obligations.OamDmaCopiesAPage : Prop :=
  (∀ (v : Byte) (s : State), MemoriesWf s → v.toNat < 0x20 ∨ 0x60 ≤ v.toNat →
    ∃ oam, busWrite 0x4014 v s =
        .ok () { s with ppu := { s.ppu with oam := oam }
                        cpu := { s.cpu with stall := s.cpu.stall + 513 + s.cpu.cycle % 2 } } ∧
      ∀ i : Byte, some (Memory.read oam (s.ppu.oamAddr + i).toNat) = peek (pair v i) s) ∧
  (∀ s : State, ∃ t, busWrite 0x4014 0x40 s = .stop (.invalidAddress 0x4018) t)

/-- Writing a byte with bit 0 set and then one with bit 0 clear to 0x4016 and reading port 1 eight times and n times
more gives in bit 0 the eight buttons of controller 1 in that order and then n ones, and the same of port 2 and
controller 2 where port 2 holds a standard controller; while the strobe is 1 every read gives button A. Bits 4:1 of
such a read are 0 and bits 7:5 the open-bus draw's; it changes that port's own shift register and the draw count
only. With a light gun a read of 0x4017 has bits 2:0 at 0, bit 3 clear exactly if light is sensed, bit 4 the
trigger, bits 7:5 the draw's, and only counts the draw.
(R223, R224, R225, R226) -/
def Obligations.ControllerShiftsOutButtons : Prop :=
  (∀ (n : Nat) (v w : Byte) (s s1 s2 : State), v.getLsbD 0 = true → w.getLsbD 0 = false →
    busWrite 0x4016 v s = .ok () s1 → busWrite 0x4016 w s1 = .ok () s2 →
    portBits 0x4016 (8 + n) s2 =
      [s.host.buttons1.a, s.host.buttons1.b, s.host.buttons1.select, s.host.buttons1.start, s.host.buttons1.up,
       s.host.buttons1.down, s.host.buttons1.left, s.host.buttons1.right] ++ List.replicate n true ∧
    (s.host.port2Device = .standard → portBits 0x4017 (8 + n) s2 =
      [s.host.buttons2.a, s.host.buttons2.b, s.host.buttons2.select, s.host.buttons2.start, s.host.buttons2.up,
       s.host.buttons2.down, s.host.buttons2.left, s.host.buttons2.right] ++ List.replicate n true)) ∧
  (∀ (n : Nat) (v : Byte) (s s1 : State), v.getLsbD 0 = true → busWrite 0x4016 v s = .ok () s1 →
    portBits 0x4016 n s1 = List.replicate n s.host.buttons1.a ∧
    (s.host.port2Device = .standard → portBits 0x4017 n s1 = List.replicate n s.host.buttons2.a)) ∧
  (∀ s : State, ∃ r t, busRead 0x4016 s = .ok r t ∧
    t = { s with ports := { s.ports with shift1 := t.ports.shift1 }, draws := s.draws + 1 } ∧
    (∀ k, 1 ≤ k → k ≤ 4 → r.getLsbD k = false) ∧
    (∀ k, 5 ≤ k → k ≤ 7 → r.getLsbD k = (Config.openBus s.draws).getLsbD k)) ∧
  (∀ s : State, s.host.port2Device = .standard → ∃ r t, busRead 0x4017 s = .ok r t ∧
    t = { s with ports := { s.ports with shift2 := t.ports.shift2 }, draws := s.draws + 1 } ∧
    (∀ k, 1 ≤ k → k ≤ 4 → r.getLsbD k = false) ∧
    (∀ k, 5 ≤ k → k ≤ 7 → r.getLsbD k = (Config.openBus s.draws).getLsbD k)) ∧
  (∀ s : State, s.host.port2Device = .lightGun → ∃ r, busRead 0x4017 s = .ok r { s with draws := s.draws + 1 } ∧
    (∀ k, k ≤ 2 → r.getLsbD k = false) ∧ r.getLsbD 3 = !s.host.gunLight ∧ r.getLsbD 4 = s.host.gunTrigger ∧
    ∀ k, 5 ≤ k → k ≤ 7 → r.getLsbD k = (Config.openBus s.draws).getLsbD k)

/-- A host reset is the sequence, and construction is power-on values followed by it. Reset of any state: P with I set,
S less 3 modulo 256, PC the word at 0xFFFC (low byte) read through the mapper, both latches clear, stall 7 whatever
it was; ctrl, mask, w, the scroll and the read buffer 0; every channel disabled with its length 0, no DMC bytes,
both APU IRQ flags and the sequencer count 0; every other register, position, memory and the fault record are as
before.
(R233) -/
def Obligations.ResetSequenceEffect : Prop :=
  (∀ s : State,
    (resetSequence s).cpu = { s.cpu with p := s.cpu.p ||| 0x04, s := s.cpu.s - 3, stall := 7, nmiPending := false
                                         irqPending := false
                                         pc := pair (s.cart.readPrg 0xFFFD) (s.cart.readPrg 0xFFFC) } ∧
    (resetSequence s).ppu = { s.ppu with ctrl := 0, mask := 0, w := false, scrollX := 0, scrollY := 0, rbuf := 0 } ∧
    (resetSequence s).apu =
      { s.apu with enP1 := false, enP2 := false, enTri := false, enNoise := false, frameIrq := false, fsCounter := 0
                   p1 := { s.apu.p1 with len := 0 }, p2 := { s.apu.p2 with len := 0 }
                   tri := { s.apu.tri with len := 0 }, noise := { s.apu.noise with len := 0 }
                   dmc := { s.apu.dmc with bytesLeft := 0, dmcIrq := false } } ∧
    resetSequence s = { s with cpu := (resetSequence s).cpu, ppu := (resetSequence s).ppu
                               apu := (resetSequence s).apu } ∧
    hostAct .reset s = resetSequence s ∧
    busRead 0xFFFC s = .ok (s.cart.readPrg 0xFFFC) s ∧ busRead 0xFFFD s = .ok (s.cart.readPrg 0xFFFD) s) ∧
  (∀ (image : List Byte) (q : Params) (c : Cart), loadCart image = .ok c →
    construct image q = .ok (resetSequence (State.powerOn { q with cart := c })))

/-- Construction succeeds exactly if the image has 16 header bytes, the PRG and CHR bytes its header promises, mapper 0,
the magic and at least one PRG unit. The constructed state has A, X, Y 0, S 0xFD, P 0x24, PC from the image's reset
vector, stall 7, nothing pending, no fault, the PPU, APU and ports at their power-on values and the given port-2
device; it reads at every address a from 0x8000 the image's PRG byte (a - 0x8000) modulo the PRG size, so a 16 KB
image also at 0xC000; and each of RAM, nametable RAM (4 KB if four-screen, else 2 KB), OAM, palette, PRG RAM and,
without CHR ROM, CHR RAM holds its power-on parameter. That a byte missing from a parameter reads 0 is the model's
choice, not R232's (log 3).
(R46, R47, R48, R50, R225, R232, R233, R234, R35) -/
def Obligations.ConstructionNeedsAWellFormedImage : Prop :=
  (∀ (image : List Byte) (q : Params), (∃ s, construct image q = .ok s) ↔
    16 ≤ image.length ∧
    16 + (if (image.getD 6 0).getLsbD 2 then 512 else 0) + 16384 * (image.getD 4 0).toNat +
      8192 * (image.getD 5 0).toNat ≤ image.length ∧
    (image.getD 6 0).toNat / 16 = 0 ∧ (image.getD 7 0).toNat / 16 = 0 ∧ image.take 4 = [0x4E, 0x45, 0x53, 0x1A] ∧
    (image.getD 4 0).toNat ≠ 0) ∧
  (∀ (image : List Byte) (q : Params) (s : State), construct image q = .ok s → ∃ (start size : Nat) (lo hi : Byte),
    start = 16 + (if (image.getD 6 0).getLsbD 2 then 512 else 0) ∧ size = 16384 * (image.getD 4 0).toNat ∧
    (∀ a : Addr, 0x8000 ≤ a.toNat → peek a s = image[start + (a.toNat - 0x8000) % size]?) ∧
    image[start + 0x7FFC % size]? = some lo ∧ image[start + 0x7FFD % size]? = some hi ∧
    s.cpu = { a := 0, x := 0, y := 0, s := 0xFD, p := 0x24, pc := pair hi lo, stall := 7, nmiPending := false
              irqPending := false, cycle := 0, fault := none } ∧
    s.ppu = Ppu.powerOn s.ppu.oam s.ppu.palette ∧ s.apu = Apu.powerOn ∧ s.ports = Ports.powerOn ∧
    s.host.port2Device = q.port2Device ∧
    (∀ k, k < 0x800 → Memory.read s.ram k = q.initRam.getD k 0) ∧
    (∀ k, k < (if (image.getD 6 0).getLsbD 3 then 0x1000 else 0x800) → Memory.read s.vram k = q.initVram.getD k 0) ∧
    (∀ k, k < 256 → Memory.read s.ppu.oam k = q.initOam.getD k 0) ∧
    (∀ k, k < 32 → Memory.read s.ppu.palette k = q.initPalette.getD k 0) ∧
    (∀ k, k < 0x2000 → Memory.read s.prgRam k = q.initPrgRam.getD k 0) ∧
    ((image.getD 5 0).toNat = 0 → ∀ k, k < 0x2000 → Memory.read s.chrRam k = q.initChrRam.getD k 0))

/-- The model's reset state is what power-on with the blank parameters (the model's choice: log 3 and log 4) followed by
the reset sequence gives, and the invariant of the system holds there: memories canonical and in their sizes, P in
form, the PPU position in the frame, the APU counters in range, PPU position and APU step count in lock step with
the cycle count.
(R233, R234) -/
def Obligations.ResetHasInv : Prop :=
  State.reset = resetSequence (State.powerOn Params.blank) ∧ Inv State.reset

/-- From every state with the invariant, not only from reset, a step that answers a next state keeps it: canonical
memories, bit 5 of P at 1 and B at 0, the PPU inside its frame, the APU counters in range (the noise register never
0, a disabled channel silent), three dots and one APU step per counted cycle.
(R229, R38, R24, R175, R197) -/
def Obligations.StepKeepsInv : Prop :=
  ∀ s t : State, Inv s → step s = .next t → Inv t

/-- Whatever image and power-on contents a system is constructed from, it has the invariant; a change of buttons or
light-gun inputs and a host reset keep it, and change no memory and not the cartridge.
(R227, R228, R232) -/
def Obligations.HostKeepsInv : Prop :=
  (∀ (image : List Byte) (q : Params) (s : State), construct image q = .ok s → Inv s) ∧
  (∀ (h : HostAction) (s : State), Inv s → Inv (hostAct h s)) ∧
  (∀ (h : HostAction) (s : State), SameMemories s (hostAct h s))

/-- A loaded cartridge has the PRG and CHR sizes of the header, its PRG bytes are the image's bytes after the header
(and after the trainer if byte 6 bit 2 is set), its CHR bytes those after PRG; and whatever a step or a host action
does, the cartridge part of the state is the same afterwards.
(R47) -/
def Obligations.CartridgeRomIsImmutable : Prop :=
  (∀ (image : List Byte) (c : Cart), loadCart image = .ok c →
    c.prgUnits = (image.getD 4 0).toNat ∧ c.chrUnits = (image.getD 5 0).toNat ∧
    (∀ k, k < 16384 * c.prgUnits →
      some (Memory.read c.prg k) = image[16 + (if (image.getD 6 0).getLsbD 2 then 512 else 0) + k]?) ∧
    (∀ k, k < 8192 * c.chrUnits → some (Memory.read c.chr k) =
      image[16 + (if (image.getD 6 0).getLsbD 2 then 512 else 0) + 16384 * c.prgUnits + k]?)) ∧
  (∀ s t : State, step s = .next t → t.cart = s.cart) ∧
  (∀ (h : HostAction) (s : State), (hostAct h s).cart = s.cart)
end

