-- ==== Sys2Proof/Laws/Memory.lean ====
section
/-! SUPPORT. The laws of one memory: a read after a write, and that every operation keeps the canonical form. -/

namespace Sys2Proof.Machine

theorem Memory.read_cons_same (k : Nat) (v : Byte) (m : Memory) (h : Memory.read m k = Memory.unlisted) :
    Memory.read (Memory.cons k v m) k = v := by
  unfold Memory.cons
  split
  · next hv => rw [h, hv]
  · simp [Memory.read]

/-- Below the first index of a canonical list every byte is unlisted. -/
theorem Memory.read_below {size : Nat} : ∀ {lo : Nat} {m : Memory} {k : Nat},
    Memory.wfFrom size lo m = true → k < lo → Memory.read m k = Memory.unlisted
  | _, [], _, _, _ => rfl
  | lo, (j, b) :: rest, k, h, hk => by
    simp only [Memory.wfFrom, Bool.and_eq_true, decide_eq_true_eq] at h
    have hj : lo ≤ j := h.1.1.1
    simp [Memory.read, show j ≠ k by omega, show k < j by omega]

theorem Memory.wfFrom_mono {size : Nat} : ∀ {lo lo' : Nat} {m : Memory},
    lo' ≤ lo → Memory.wfFrom size lo m = true → Memory.wfFrom size lo' m = true
  | _, _, [], _, _ => rfl
  | lo, lo', (j, b) :: rest, hle, h => by
    simp only [Memory.wfFrom, Bool.and_eq_true, decide_eq_true_eq] at h ⊢
    exact ⟨⟨⟨by omega, h.1.1.2⟩, h.1.2⟩, h.2⟩

/-- A read after a write to the same index gives the byte written. -/
theorem Memory.read_write_same {size : Nat} (k : Nat) (v : Byte) : ∀ {lo : Nat} (m : Memory),
    Memory.wfFrom size lo m = true → Memory.read (Memory.write m k v) k = v
  | _, [], _ => Memory.read_cons_same k v [] rfl
  | lo, (j, b) :: rest, h => by
    have h0 := h
    simp only [Memory.wfFrom, Bool.and_eq_true, decide_eq_true_eq] at h
    by_cases hjk : j = k
    · subst hjk
      simp only [Memory.write, if_true]
      exact Memory.read_cons_same _ v rest (Memory.read_below h.2 (by omega))
    · by_cases hkj : k < j
      · simp only [Memory.write, if_neg hjk, if_pos hkj]
        exact Memory.read_cons_same k v _ (by simp [Memory.read, hjk, hkj])
      · simp only [Memory.write, if_neg hjk, if_neg hkj, Memory.read]
        exact Memory.read_write_same k v rest h.2

/-- A write leaves every other index alone. -/
theorem Memory.read_write_other {k k' : Nat} (v : Byte) (hne : k' ≠ k) : ∀ {size lo : Nat} (m : Memory),
    Memory.wfFrom size lo m = true → Memory.read (Memory.write m k v) k' = Memory.read m k'
  | _, _, [], _ => by
    simp only [Memory.write, Memory.cons]
    split <;> simp [Memory.read, Ne.symm hne]
  | size, lo, (j, b) :: rest, h => by
    simp only [Memory.wfFrom, Bool.and_eq_true, decide_eq_true_eq] at h
    by_cases hjk : j = k
    · subst hjk
      simp only [Memory.write, if_true, Memory.cons]
      split
      · by_cases hlt : k' < j
        · simp [Memory.read, Ne.symm hne, hlt, Memory.read_below h.2 (show k' < j + 1 by omega)]
        · simp [Memory.read, Ne.symm hne, hlt]
      · simp [Memory.read, Ne.symm hne]
    · by_cases hkj : k < j
      · simp only [Memory.write, if_neg hjk, if_pos hkj, Memory.cons]
        split
        · rfl
        · simp only [Memory.read, if_neg (Ne.symm hne)]
          by_cases h1 : j = k'
          · simp [h1, show ¬k' < k by omega]
          · by_cases h2 : k' < j
            · simp [h1, h2]
            · simp [h1, h2, show ¬k' < k by omega]
      · simp only [Memory.write, if_neg hjk, if_neg hkj, Memory.read]
        rw [Memory.read_write_other v hne rest h.2]

theorem Memory.cons_wf {size lo k : Nat} {v : Byte} {m : Memory} (hlo : lo ≤ k) (hk : k < size)
    (h : Memory.wfFrom size (k + 1) m = true) : Memory.wfFrom size lo (Memory.cons k v m) = true := by
  unfold Memory.cons
  split
  · exact Memory.wfFrom_mono (by omega) h
  · next hv => simp [Memory.wfFrom, hlo, hk, hv, h]

theorem Memory.write_wfFrom {size k : Nat} {v : Byte} (hk : k < size) : ∀ {lo : Nat} {m : Memory},
    lo ≤ k → Memory.wfFrom size lo m = true → Memory.wfFrom size lo (Memory.write m k v) = true
  | _, [], hlo, _ => Memory.cons_wf hlo hk rfl
  | lo, (j, b) :: rest, hlo, h => by
    have h' := h
    simp only [Memory.wfFrom, Bool.and_eq_true, decide_eq_true_eq] at h
    by_cases hjk : j = k
    · subst hjk
      simp only [Memory.write, if_true]
      exact Memory.cons_wf hlo hk h.2
    · by_cases hkj : k < j
      · simp only [Memory.write, if_neg hjk, if_pos hkj]
        refine Memory.cons_wf hlo hk ?_
        simp only [Memory.wfFrom, Bool.and_eq_true, decide_eq_true_eq]
        exact ⟨⟨⟨by omega, h.1.1.2⟩, h.1.2⟩, h.2⟩
      · simp only [Memory.write, if_neg hjk, if_neg hkj, Memory.wfFrom, Bool.and_eq_true, decide_eq_true_eq]
        exact ⟨h.1, Memory.write_wfFrom hk (by omega) h.2⟩

/-- A write inside the memory keeps its canonical form. -/
theorem Memory.write_wf {size k : Nat} {v : Byte} {m : Memory} (hk : k < size) (h : Memory.wf size m = true) :
    Memory.wf size (Memory.write m k v) = true := Memory.write_wfFrom hk (Nat.zero_le _) h

theorem Memory.read_write_same' {size k : Nat} {v : Byte} {m : Memory} (h : Memory.wf size m = true) :
    Memory.read (Memory.write m k v) k = v := Memory.read_write_same k v m h

theorem Memory.read_write_other' {size k k' : Nat} {v : Byte} {m : Memory} (hne : k' ≠ k)
    (h : Memory.wf size m = true) : Memory.read (Memory.write m k v) k' = Memory.read m k' :=
  Memory.read_write_other v hne m h

theorem Memory.cellsFrom_wf {size : Nat} : ∀ (bytes : List Byte) (k : Nat), k + bytes.length ≤ size →
    Memory.wfFrom size k (Memory.cellsFrom k bytes) = true
  | [], _, _ => rfl
  | b :: rest, k, h => by
    simp only [List.length_cons] at h
    exact Memory.cons_wf (Nat.le_refl k) (by omega) (Memory.cellsFrom_wf rest (k + 1) (by omega))

/-- A memory made from bytes is in canonical form. -/
theorem Memory.ofBytes_wf (size : Nat) (bytes : List Byte) : Memory.wf size (Memory.ofBytes size bytes) = true :=
  Memory.cellsFrom_wf _ 0 (by simp [List.length_take])

/-- The bytes of a memory made from them. -/
theorem Memory.read_cellsFrom : ∀ (bytes : List Byte) (k i : Nat),
    Memory.read (Memory.cellsFrom k bytes) (k + i) = bytes.getD i Memory.unlisted
  | [], _, _ => by simp [Memory.cellsFrom, Memory.read]
  | b :: rest, k, 0 => by
    have h : Memory.read (Memory.cellsFrom (k + 1) rest) k = Memory.unlisted :=
      Memory.read_below (Memory.cellsFrom_wf (size := k + 1 + rest.length) rest (k + 1) (Nat.le_refl _)) (Nat.lt_succ_self k)
    simpa [Memory.cellsFrom] using Memory.read_cons_same k b _ h
  | b :: rest, k, i + 1 => by
    have ih := Memory.read_cellsFrom rest (k + 1) i
    rw [show k + 1 + i = k + (i + 1) by omega] at ih
    simp only [Memory.cellsFrom, Memory.cons]
    split
    · simpa using ih
    · simpa [Memory.read] using ih

/-- Two canonical memories that read alike are equal. -/
theorem Memory.ext_of_read {size : Nat} : ∀ {lo : Nat} {m n : Memory}, Memory.wfFrom size lo m = true →
    Memory.wfFrom size lo n = true → (∀ k, Memory.read m k = Memory.read n k) → m = n
  | _, [], [], _, _, _ => rfl
  | _, [], (j, b) :: rest, _, hn, h => by
    simp only [Memory.wfFrom, Bool.and_eq_true, decide_eq_true_eq, bne_iff_ne] at hn
    exact absurd (h j) (by simpa [Memory.read] using Ne.symm hn.1.2)
  | _, (j, b) :: rest, [], hm, _, h => by
    simp only [Memory.wfFrom, Bool.and_eq_true, decide_eq_true_eq, bne_iff_ne] at hm
    exact absurd (h j) (by simpa [Memory.read] using hm.1.2)
  | lo, (i, a) :: m, (j, b) :: n, hm, hn, h => by
    simp only [Memory.wfFrom, Bool.and_eq_true, decide_eq_true_eq, bne_iff_ne] at hm hn
    have hij : i = j := by
      rcases Nat.lt_trichotomy i j with hlt | heq | hgt
      · have := h i
        simp [Memory.read, show j ≠ i by omega, hlt] at this
        exact absurd this hm.1.2
      · exact heq
      · have := h j
        simp [Memory.read, show i ≠ j by omega, hgt] at this
        exact absurd this.symm hn.1.2
    subst hij
    have hab : a = b := by simpa [Memory.read] using h i
    subst hab
    refine congrArg _ (Memory.ext_of_read hm.2 hn.2 fun k => ?_)
    by_cases hik : i = k
    · subst hik
      rw [Memory.read_below hm.2 (Nat.lt_succ_self _), Memory.read_below hn.2 (Nat.lt_succ_self _)]
    · by_cases hk : k < i
      · rw [Memory.read_below hm.2 (by omega), Memory.read_below hn.2 (by omega)]
      · simpa [Memory.read, hik, hk] using h k

end Sys2Proof.Machine
end

