-- ==== Sys2Proof/Laws/State.lean ====
section
/-! SUPPORT. One lemma per field per update of the state, each true by rfl: no later proof unfolds a record update. -/

namespace Sys2Proof.Machine

variable (s : State)

/-! ### setA -/

@[simp] theorem State.setA_cpu (v : Byte) : (s.setA v).cpu = { s.cpu with a := v } := rfl
@[simp] theorem State.setA_ram (v : Byte) : (s.setA v).ram = s.ram := rfl
@[simp] theorem State.setA_cart (v : Byte) : (s.setA v).cart = s.cart := rfl
@[simp] theorem State.setA_prgRam (v : Byte) : (s.setA v).prgRam = s.prgRam := rfl
@[simp] theorem State.setA_chrRam (v : Byte) : (s.setA v).chrRam = s.chrRam := rfl
@[simp] theorem State.setA_vram (v : Byte) : (s.setA v).vram = s.vram := rfl
@[simp] theorem State.setA_ppu (v : Byte) : (s.setA v).ppu = s.ppu := rfl
@[simp] theorem State.setA_apu (v : Byte) : (s.setA v).apu = s.apu := rfl
@[simp] theorem State.setA_ports (v : Byte) : (s.setA v).ports = s.ports := rfl
@[simp] theorem State.setA_host (v : Byte) : (s.setA v).host = s.host := rfl
@[simp] theorem State.setA_out (v : Byte) : (s.setA v).out = s.out := rfl
@[simp] theorem State.setA_draws (v : Byte) : (s.setA v).draws = s.draws := rfl

/-! ### setX -/

@[simp] theorem State.setX_cpu (v : Byte) : (s.setX v).cpu = { s.cpu with x := v } := rfl
@[simp] theorem State.setX_ram (v : Byte) : (s.setX v).ram = s.ram := rfl
@[simp] theorem State.setX_cart (v : Byte) : (s.setX v).cart = s.cart := rfl
@[simp] theorem State.setX_prgRam (v : Byte) : (s.setX v).prgRam = s.prgRam := rfl
@[simp] theorem State.setX_chrRam (v : Byte) : (s.setX v).chrRam = s.chrRam := rfl
@[simp] theorem State.setX_vram (v : Byte) : (s.setX v).vram = s.vram := rfl
@[simp] theorem State.setX_ppu (v : Byte) : (s.setX v).ppu = s.ppu := rfl
@[simp] theorem State.setX_apu (v : Byte) : (s.setX v).apu = s.apu := rfl
@[simp] theorem State.setX_ports (v : Byte) : (s.setX v).ports = s.ports := rfl
@[simp] theorem State.setX_host (v : Byte) : (s.setX v).host = s.host := rfl
@[simp] theorem State.setX_out (v : Byte) : (s.setX v).out = s.out := rfl
@[simp] theorem State.setX_draws (v : Byte) : (s.setX v).draws = s.draws := rfl

/-! ### setY -/

@[simp] theorem State.setY_cpu (v : Byte) : (s.setY v).cpu = { s.cpu with y := v } := rfl
@[simp] theorem State.setY_ram (v : Byte) : (s.setY v).ram = s.ram := rfl
@[simp] theorem State.setY_cart (v : Byte) : (s.setY v).cart = s.cart := rfl
@[simp] theorem State.setY_prgRam (v : Byte) : (s.setY v).prgRam = s.prgRam := rfl
@[simp] theorem State.setY_chrRam (v : Byte) : (s.setY v).chrRam = s.chrRam := rfl
@[simp] theorem State.setY_vram (v : Byte) : (s.setY v).vram = s.vram := rfl
@[simp] theorem State.setY_ppu (v : Byte) : (s.setY v).ppu = s.ppu := rfl
@[simp] theorem State.setY_apu (v : Byte) : (s.setY v).apu = s.apu := rfl
@[simp] theorem State.setY_ports (v : Byte) : (s.setY v).ports = s.ports := rfl
@[simp] theorem State.setY_host (v : Byte) : (s.setY v).host = s.host := rfl
@[simp] theorem State.setY_out (v : Byte) : (s.setY v).out = s.out := rfl
@[simp] theorem State.setY_draws (v : Byte) : (s.setY v).draws = s.draws := rfl

/-! ### setS -/

@[simp] theorem State.setS_cpu (v : Byte) : (s.setS v).cpu = { s.cpu with s := v } := rfl
@[simp] theorem State.setS_ram (v : Byte) : (s.setS v).ram = s.ram := rfl
@[simp] theorem State.setS_cart (v : Byte) : (s.setS v).cart = s.cart := rfl
@[simp] theorem State.setS_prgRam (v : Byte) : (s.setS v).prgRam = s.prgRam := rfl
@[simp] theorem State.setS_chrRam (v : Byte) : (s.setS v).chrRam = s.chrRam := rfl
@[simp] theorem State.setS_vram (v : Byte) : (s.setS v).vram = s.vram := rfl
@[simp] theorem State.setS_ppu (v : Byte) : (s.setS v).ppu = s.ppu := rfl
@[simp] theorem State.setS_apu (v : Byte) : (s.setS v).apu = s.apu := rfl
@[simp] theorem State.setS_ports (v : Byte) : (s.setS v).ports = s.ports := rfl
@[simp] theorem State.setS_host (v : Byte) : (s.setS v).host = s.host := rfl
@[simp] theorem State.setS_out (v : Byte) : (s.setS v).out = s.out := rfl
@[simp] theorem State.setS_draws (v : Byte) : (s.setS v).draws = s.draws := rfl

/-! ### setP -/

@[simp] theorem State.setP_cpu (v : Byte) : (s.setP v).cpu = { s.cpu with p := v } := rfl
@[simp] theorem State.setP_ram (v : Byte) : (s.setP v).ram = s.ram := rfl
@[simp] theorem State.setP_cart (v : Byte) : (s.setP v).cart = s.cart := rfl
@[simp] theorem State.setP_prgRam (v : Byte) : (s.setP v).prgRam = s.prgRam := rfl
@[simp] theorem State.setP_chrRam (v : Byte) : (s.setP v).chrRam = s.chrRam := rfl
@[simp] theorem State.setP_vram (v : Byte) : (s.setP v).vram = s.vram := rfl
@[simp] theorem State.setP_ppu (v : Byte) : (s.setP v).ppu = s.ppu := rfl
@[simp] theorem State.setP_apu (v : Byte) : (s.setP v).apu = s.apu := rfl
@[simp] theorem State.setP_ports (v : Byte) : (s.setP v).ports = s.ports := rfl
@[simp] theorem State.setP_host (v : Byte) : (s.setP v).host = s.host := rfl
@[simp] theorem State.setP_out (v : Byte) : (s.setP v).out = s.out := rfl
@[simp] theorem State.setP_draws (v : Byte) : (s.setP v).draws = s.draws := rfl

/-! ### setPc -/

@[simp] theorem State.setPc_cpu (v : Addr) : (s.setPc v).cpu = { s.cpu with pc := v } := rfl
@[simp] theorem State.setPc_ram (v : Addr) : (s.setPc v).ram = s.ram := rfl
@[simp] theorem State.setPc_cart (v : Addr) : (s.setPc v).cart = s.cart := rfl
@[simp] theorem State.setPc_prgRam (v : Addr) : (s.setPc v).prgRam = s.prgRam := rfl
@[simp] theorem State.setPc_chrRam (v : Addr) : (s.setPc v).chrRam = s.chrRam := rfl
@[simp] theorem State.setPc_vram (v : Addr) : (s.setPc v).vram = s.vram := rfl
@[simp] theorem State.setPc_ppu (v : Addr) : (s.setPc v).ppu = s.ppu := rfl
@[simp] theorem State.setPc_apu (v : Addr) : (s.setPc v).apu = s.apu := rfl
@[simp] theorem State.setPc_ports (v : Addr) : (s.setPc v).ports = s.ports := rfl
@[simp] theorem State.setPc_host (v : Addr) : (s.setPc v).host = s.host := rfl
@[simp] theorem State.setPc_out (v : Addr) : (s.setPc v).out = s.out := rfl
@[simp] theorem State.setPc_draws (v : Addr) : (s.setPc v).draws = s.draws := rfl

/-! ### setStall -/

@[simp] theorem State.setStall_cpu (v : Nat) : (s.setStall v).cpu = { s.cpu with stall := v } := rfl
@[simp] theorem State.setStall_ram (v : Nat) : (s.setStall v).ram = s.ram := rfl
@[simp] theorem State.setStall_cart (v : Nat) : (s.setStall v).cart = s.cart := rfl
@[simp] theorem State.setStall_prgRam (v : Nat) : (s.setStall v).prgRam = s.prgRam := rfl
@[simp] theorem State.setStall_chrRam (v : Nat) : (s.setStall v).chrRam = s.chrRam := rfl
@[simp] theorem State.setStall_vram (v : Nat) : (s.setStall v).vram = s.vram := rfl
@[simp] theorem State.setStall_ppu (v : Nat) : (s.setStall v).ppu = s.ppu := rfl
@[simp] theorem State.setStall_apu (v : Nat) : (s.setStall v).apu = s.apu := rfl
@[simp] theorem State.setStall_ports (v : Nat) : (s.setStall v).ports = s.ports := rfl
@[simp] theorem State.setStall_host (v : Nat) : (s.setStall v).host = s.host := rfl
@[simp] theorem State.setStall_out (v : Nat) : (s.setStall v).out = s.out := rfl
@[simp] theorem State.setStall_draws (v : Nat) : (s.setStall v).draws = s.draws := rfl

/-! ### setNmi -/

@[simp] theorem State.setNmi_cpu (v : Bool) : (s.setNmi v).cpu = { s.cpu with nmiPending := v } := rfl
@[simp] theorem State.setNmi_ram (v : Bool) : (s.setNmi v).ram = s.ram := rfl
@[simp] theorem State.setNmi_cart (v : Bool) : (s.setNmi v).cart = s.cart := rfl
@[simp] theorem State.setNmi_prgRam (v : Bool) : (s.setNmi v).prgRam = s.prgRam := rfl
@[simp] theorem State.setNmi_chrRam (v : Bool) : (s.setNmi v).chrRam = s.chrRam := rfl
@[simp] theorem State.setNmi_vram (v : Bool) : (s.setNmi v).vram = s.vram := rfl
@[simp] theorem State.setNmi_ppu (v : Bool) : (s.setNmi v).ppu = s.ppu := rfl
@[simp] theorem State.setNmi_apu (v : Bool) : (s.setNmi v).apu = s.apu := rfl
@[simp] theorem State.setNmi_ports (v : Bool) : (s.setNmi v).ports = s.ports := rfl
@[simp] theorem State.setNmi_host (v : Bool) : (s.setNmi v).host = s.host := rfl
@[simp] theorem State.setNmi_out (v : Bool) : (s.setNmi v).out = s.out := rfl
@[simp] theorem State.setNmi_draws (v : Bool) : (s.setNmi v).draws = s.draws := rfl

/-! ### setIrq -/

@[simp] theorem State.setIrq_cpu (v : Bool) : (s.setIrq v).cpu = { s.cpu with irqPending := v } := rfl
@[simp] theorem State.setIrq_ram (v : Bool) : (s.setIrq v).ram = s.ram := rfl
@[simp] theorem State.setIrq_cart (v : Bool) : (s.setIrq v).cart = s.cart := rfl
@[simp] theorem State.setIrq_prgRam (v : Bool) : (s.setIrq v).prgRam = s.prgRam := rfl
@[simp] theorem State.setIrq_chrRam (v : Bool) : (s.setIrq v).chrRam = s.chrRam := rfl
@[simp] theorem State.setIrq_vram (v : Bool) : (s.setIrq v).vram = s.vram := rfl
@[simp] theorem State.setIrq_ppu (v : Bool) : (s.setIrq v).ppu = s.ppu := rfl
@[simp] theorem State.setIrq_apu (v : Bool) : (s.setIrq v).apu = s.apu := rfl
@[simp] theorem State.setIrq_ports (v : Bool) : (s.setIrq v).ports = s.ports := rfl
@[simp] theorem State.setIrq_host (v : Bool) : (s.setIrq v).host = s.host := rfl
@[simp] theorem State.setIrq_out (v : Bool) : (s.setIrq v).out = s.out := rfl
@[simp] theorem State.setIrq_draws (v : Bool) : (s.setIrq v).draws = s.draws := rfl

/-! ### setCycle -/

@[simp] theorem State.setCycle_cpu (v : Nat) : (s.setCycle v).cpu = { s.cpu with cycle := v } := rfl
@[simp] theorem State.setCycle_ram (v : Nat) : (s.setCycle v).ram = s.ram := rfl
@[simp] theorem State.setCycle_cart (v : Nat) : (s.setCycle v).cart = s.cart := rfl
@[simp] theorem State.setCycle_prgRam (v : Nat) : (s.setCycle v).prgRam = s.prgRam := rfl
@[simp] theorem State.setCycle_chrRam (v : Nat) : (s.setCycle v).chrRam = s.chrRam := rfl
@[simp] theorem State.setCycle_vram (v : Nat) : (s.setCycle v).vram = s.vram := rfl
@[simp] theorem State.setCycle_ppu (v : Nat) : (s.setCycle v).ppu = s.ppu := rfl
@[simp] theorem State.setCycle_apu (v : Nat) : (s.setCycle v).apu = s.apu := rfl
@[simp] theorem State.setCycle_ports (v : Nat) : (s.setCycle v).ports = s.ports := rfl
@[simp] theorem State.setCycle_host (v : Nat) : (s.setCycle v).host = s.host := rfl
@[simp] theorem State.setCycle_out (v : Nat) : (s.setCycle v).out = s.out := rfl
@[simp] theorem State.setCycle_draws (v : Nat) : (s.setCycle v).draws = s.draws := rfl

/-! ### setFault -/

@[simp] theorem State.setFault_cpu (v : Option Fault) : (s.setFault v).cpu = { s.cpu with fault := v } := rfl
@[simp] theorem State.setFault_ram (v : Option Fault) : (s.setFault v).ram = s.ram := rfl
@[simp] theorem State.setFault_cart (v : Option Fault) : (s.setFault v).cart = s.cart := rfl
@[simp] theorem State.setFault_prgRam (v : Option Fault) : (s.setFault v).prgRam = s.prgRam := rfl
@[simp] theorem State.setFault_chrRam (v : Option Fault) : (s.setFault v).chrRam = s.chrRam := rfl
@[simp] theorem State.setFault_vram (v : Option Fault) : (s.setFault v).vram = s.vram := rfl
@[simp] theorem State.setFault_ppu (v : Option Fault) : (s.setFault v).ppu = s.ppu := rfl
@[simp] theorem State.setFault_apu (v : Option Fault) : (s.setFault v).apu = s.apu := rfl
@[simp] theorem State.setFault_ports (v : Option Fault) : (s.setFault v).ports = s.ports := rfl
@[simp] theorem State.setFault_host (v : Option Fault) : (s.setFault v).host = s.host := rfl
@[simp] theorem State.setFault_out (v : Option Fault) : (s.setFault v).out = s.out := rfl
@[simp] theorem State.setFault_draws (v : Option Fault) : (s.setFault v).draws = s.draws := rfl

/-! ### setRam -/

@[simp] theorem State.setRam_cpu (v : Memory) : (s.setRam v).cpu = s.cpu := rfl
@[simp] theorem State.setRam_ram (v : Memory) : (s.setRam v).ram = v := rfl
@[simp] theorem State.setRam_cart (v : Memory) : (s.setRam v).cart = s.cart := rfl
@[simp] theorem State.setRam_prgRam (v : Memory) : (s.setRam v).prgRam = s.prgRam := rfl
@[simp] theorem State.setRam_chrRam (v : Memory) : (s.setRam v).chrRam = s.chrRam := rfl
@[simp] theorem State.setRam_vram (v : Memory) : (s.setRam v).vram = s.vram := rfl
@[simp] theorem State.setRam_ppu (v : Memory) : (s.setRam v).ppu = s.ppu := rfl
@[simp] theorem State.setRam_apu (v : Memory) : (s.setRam v).apu = s.apu := rfl
@[simp] theorem State.setRam_ports (v : Memory) : (s.setRam v).ports = s.ports := rfl
@[simp] theorem State.setRam_host (v : Memory) : (s.setRam v).host = s.host := rfl
@[simp] theorem State.setRam_out (v : Memory) : (s.setRam v).out = s.out := rfl
@[simp] theorem State.setRam_draws (v : Memory) : (s.setRam v).draws = s.draws := rfl

/-! ### setCart -/

@[simp] theorem State.setCart_cpu (v : Cart) : (s.setCart v).cpu = s.cpu := rfl
@[simp] theorem State.setCart_ram (v : Cart) : (s.setCart v).ram = s.ram := rfl
@[simp] theorem State.setCart_cart (v : Cart) : (s.setCart v).cart = v := rfl
@[simp] theorem State.setCart_prgRam (v : Cart) : (s.setCart v).prgRam = s.prgRam := rfl
@[simp] theorem State.setCart_chrRam (v : Cart) : (s.setCart v).chrRam = s.chrRam := rfl
@[simp] theorem State.setCart_vram (v : Cart) : (s.setCart v).vram = s.vram := rfl
@[simp] theorem State.setCart_ppu (v : Cart) : (s.setCart v).ppu = s.ppu := rfl
@[simp] theorem State.setCart_apu (v : Cart) : (s.setCart v).apu = s.apu := rfl
@[simp] theorem State.setCart_ports (v : Cart) : (s.setCart v).ports = s.ports := rfl
@[simp] theorem State.setCart_host (v : Cart) : (s.setCart v).host = s.host := rfl
@[simp] theorem State.setCart_out (v : Cart) : (s.setCart v).out = s.out := rfl
@[simp] theorem State.setCart_draws (v : Cart) : (s.setCart v).draws = s.draws := rfl

/-! ### setPrgRam -/

@[simp] theorem State.setPrgRam_cpu (v : Memory) : (s.setPrgRam v).cpu = s.cpu := rfl
@[simp] theorem State.setPrgRam_ram (v : Memory) : (s.setPrgRam v).ram = s.ram := rfl
@[simp] theorem State.setPrgRam_cart (v : Memory) : (s.setPrgRam v).cart = s.cart := rfl
@[simp] theorem State.setPrgRam_prgRam (v : Memory) : (s.setPrgRam v).prgRam = v := rfl
@[simp] theorem State.setPrgRam_chrRam (v : Memory) : (s.setPrgRam v).chrRam = s.chrRam := rfl
@[simp] theorem State.setPrgRam_vram (v : Memory) : (s.setPrgRam v).vram = s.vram := rfl
@[simp] theorem State.setPrgRam_ppu (v : Memory) : (s.setPrgRam v).ppu = s.ppu := rfl
@[simp] theorem State.setPrgRam_apu (v : Memory) : (s.setPrgRam v).apu = s.apu := rfl
@[simp] theorem State.setPrgRam_ports (v : Memory) : (s.setPrgRam v).ports = s.ports := rfl
@[simp] theorem State.setPrgRam_host (v : Memory) : (s.setPrgRam v).host = s.host := rfl
@[simp] theorem State.setPrgRam_out (v : Memory) : (s.setPrgRam v).out = s.out := rfl
@[simp] theorem State.setPrgRam_draws (v : Memory) : (s.setPrgRam v).draws = s.draws := rfl

/-! ### setChrRam -/

@[simp] theorem State.setChrRam_cpu (v : Memory) : (s.setChrRam v).cpu = s.cpu := rfl
@[simp] theorem State.setChrRam_ram (v : Memory) : (s.setChrRam v).ram = s.ram := rfl
@[simp] theorem State.setChrRam_cart (v : Memory) : (s.setChrRam v).cart = s.cart := rfl
@[simp] theorem State.setChrRam_prgRam (v : Memory) : (s.setChrRam v).prgRam = s.prgRam := rfl
@[simp] theorem State.setChrRam_chrRam (v : Memory) : (s.setChrRam v).chrRam = v := rfl
@[simp] theorem State.setChrRam_vram (v : Memory) : (s.setChrRam v).vram = s.vram := rfl
@[simp] theorem State.setChrRam_ppu (v : Memory) : (s.setChrRam v).ppu = s.ppu := rfl
@[simp] theorem State.setChrRam_apu (v : Memory) : (s.setChrRam v).apu = s.apu := rfl
@[simp] theorem State.setChrRam_ports (v : Memory) : (s.setChrRam v).ports = s.ports := rfl
@[simp] theorem State.setChrRam_host (v : Memory) : (s.setChrRam v).host = s.host := rfl
@[simp] theorem State.setChrRam_out (v : Memory) : (s.setChrRam v).out = s.out := rfl
@[simp] theorem State.setChrRam_draws (v : Memory) : (s.setChrRam v).draws = s.draws := rfl

/-! ### setVram -/

@[simp] theorem State.setVram_cpu (v : Memory) : (s.setVram v).cpu = s.cpu := rfl
@[simp] theorem State.setVram_ram (v : Memory) : (s.setVram v).ram = s.ram := rfl
@[simp] theorem State.setVram_cart (v : Memory) : (s.setVram v).cart = s.cart := rfl
@[simp] theorem State.setVram_prgRam (v : Memory) : (s.setVram v).prgRam = s.prgRam := rfl
@[simp] theorem State.setVram_chrRam (v : Memory) : (s.setVram v).chrRam = s.chrRam := rfl
@[simp] theorem State.setVram_vram (v : Memory) : (s.setVram v).vram = v := rfl
@[simp] theorem State.setVram_ppu (v : Memory) : (s.setVram v).ppu = s.ppu := rfl
@[simp] theorem State.setVram_apu (v : Memory) : (s.setVram v).apu = s.apu := rfl
@[simp] theorem State.setVram_ports (v : Memory) : (s.setVram v).ports = s.ports := rfl
@[simp] theorem State.setVram_host (v : Memory) : (s.setVram v).host = s.host := rfl
@[simp] theorem State.setVram_out (v : Memory) : (s.setVram v).out = s.out := rfl
@[simp] theorem State.setVram_draws (v : Memory) : (s.setVram v).draws = s.draws := rfl

/-! ### setPpu -/

@[simp] theorem State.setPpu_cpu (v : Ppu) : (s.setPpu v).cpu = s.cpu := rfl
@[simp] theorem State.setPpu_ram (v : Ppu) : (s.setPpu v).ram = s.ram := rfl
@[simp] theorem State.setPpu_cart (v : Ppu) : (s.setPpu v).cart = s.cart := rfl
@[simp] theorem State.setPpu_prgRam (v : Ppu) : (s.setPpu v).prgRam = s.prgRam := rfl
@[simp] theorem State.setPpu_chrRam (v : Ppu) : (s.setPpu v).chrRam = s.chrRam := rfl
@[simp] theorem State.setPpu_vram (v : Ppu) : (s.setPpu v).vram = s.vram := rfl
@[simp] theorem State.setPpu_ppu (v : Ppu) : (s.setPpu v).ppu = v := rfl
@[simp] theorem State.setPpu_apu (v : Ppu) : (s.setPpu v).apu = s.apu := rfl
@[simp] theorem State.setPpu_ports (v : Ppu) : (s.setPpu v).ports = s.ports := rfl
@[simp] theorem State.setPpu_host (v : Ppu) : (s.setPpu v).host = s.host := rfl
@[simp] theorem State.setPpu_out (v : Ppu) : (s.setPpu v).out = s.out := rfl
@[simp] theorem State.setPpu_draws (v : Ppu) : (s.setPpu v).draws = s.draws := rfl

/-! ### setApu -/

@[simp] theorem State.setApu_cpu (v : Apu) : (s.setApu v).cpu = s.cpu := rfl
@[simp] theorem State.setApu_ram (v : Apu) : (s.setApu v).ram = s.ram := rfl
@[simp] theorem State.setApu_cart (v : Apu) : (s.setApu v).cart = s.cart := rfl
@[simp] theorem State.setApu_prgRam (v : Apu) : (s.setApu v).prgRam = s.prgRam := rfl
@[simp] theorem State.setApu_chrRam (v : Apu) : (s.setApu v).chrRam = s.chrRam := rfl
@[simp] theorem State.setApu_vram (v : Apu) : (s.setApu v).vram = s.vram := rfl
@[simp] theorem State.setApu_ppu (v : Apu) : (s.setApu v).ppu = s.ppu := rfl
@[simp] theorem State.setApu_apu (v : Apu) : (s.setApu v).apu = v := rfl
@[simp] theorem State.setApu_ports (v : Apu) : (s.setApu v).ports = s.ports := rfl
@[simp] theorem State.setApu_host (v : Apu) : (s.setApu v).host = s.host := rfl
@[simp] theorem State.setApu_out (v : Apu) : (s.setApu v).out = s.out := rfl
@[simp] theorem State.setApu_draws (v : Apu) : (s.setApu v).draws = s.draws := rfl

/-! ### setPorts -/

@[simp] theorem State.setPorts_cpu (v : Ports) : (s.setPorts v).cpu = s.cpu := rfl
@[simp] theorem State.setPorts_ram (v : Ports) : (s.setPorts v).ram = s.ram := rfl
@[simp] theorem State.setPorts_cart (v : Ports) : (s.setPorts v).cart = s.cart := rfl
@[simp] theorem State.setPorts_prgRam (v : Ports) : (s.setPorts v).prgRam = s.prgRam := rfl
@[simp] theorem State.setPorts_chrRam (v : Ports) : (s.setPorts v).chrRam = s.chrRam := rfl
@[simp] theorem State.setPorts_vram (v : Ports) : (s.setPorts v).vram = s.vram := rfl
@[simp] theorem State.setPorts_ppu (v : Ports) : (s.setPorts v).ppu = s.ppu := rfl
@[simp] theorem State.setPorts_apu (v : Ports) : (s.setPorts v).apu = s.apu := rfl
@[simp] theorem State.setPorts_ports (v : Ports) : (s.setPorts v).ports = v := rfl
@[simp] theorem State.setPorts_host (v : Ports) : (s.setPorts v).host = s.host := rfl
@[simp] theorem State.setPorts_out (v : Ports) : (s.setPorts v).out = s.out := rfl
@[simp] theorem State.setPorts_draws (v : Ports) : (s.setPorts v).draws = s.draws := rfl

/-! ### setHost -/

@[simp] theorem State.setHost_cpu (v : HostInputs) : (s.setHost v).cpu = s.cpu := rfl
@[simp] theorem State.setHost_ram (v : HostInputs) : (s.setHost v).ram = s.ram := rfl
@[simp] theorem State.setHost_cart (v : HostInputs) : (s.setHost v).cart = s.cart := rfl
@[simp] theorem State.setHost_prgRam (v : HostInputs) : (s.setHost v).prgRam = s.prgRam := rfl
@[simp] theorem State.setHost_chrRam (v : HostInputs) : (s.setHost v).chrRam = s.chrRam := rfl
@[simp] theorem State.setHost_vram (v : HostInputs) : (s.setHost v).vram = s.vram := rfl
@[simp] theorem State.setHost_ppu (v : HostInputs) : (s.setHost v).ppu = s.ppu := rfl
@[simp] theorem State.setHost_apu (v : HostInputs) : (s.setHost v).apu = s.apu := rfl
@[simp] theorem State.setHost_ports (v : HostInputs) : (s.setHost v).ports = s.ports := rfl
@[simp] theorem State.setHost_host (v : HostInputs) : (s.setHost v).host = v := rfl
@[simp] theorem State.setHost_out (v : HostInputs) : (s.setHost v).out = s.out := rfl
@[simp] theorem State.setHost_draws (v : HostInputs) : (s.setHost v).draws = s.draws := rfl

/-! ### setOut -/

@[simp] theorem State.setOut_cpu (v : Output) : (s.setOut v).cpu = s.cpu := rfl
@[simp] theorem State.setOut_ram (v : Output) : (s.setOut v).ram = s.ram := rfl
@[simp] theorem State.setOut_cart (v : Output) : (s.setOut v).cart = s.cart := rfl
@[simp] theorem State.setOut_prgRam (v : Output) : (s.setOut v).prgRam = s.prgRam := rfl
@[simp] theorem State.setOut_chrRam (v : Output) : (s.setOut v).chrRam = s.chrRam := rfl
@[simp] theorem State.setOut_vram (v : Output) : (s.setOut v).vram = s.vram := rfl
@[simp] theorem State.setOut_ppu (v : Output) : (s.setOut v).ppu = s.ppu := rfl
@[simp] theorem State.setOut_apu (v : Output) : (s.setOut v).apu = s.apu := rfl
@[simp] theorem State.setOut_ports (v : Output) : (s.setOut v).ports = s.ports := rfl
@[simp] theorem State.setOut_host (v : Output) : (s.setOut v).host = s.host := rfl
@[simp] theorem State.setOut_out (v : Output) : (s.setOut v).out = v := rfl
@[simp] theorem State.setOut_draws (v : Output) : (s.setOut v).draws = s.draws := rfl

/-! ### setDraws -/

@[simp] theorem State.setDraws_cpu (v : Nat) : (s.setDraws v).cpu = s.cpu := rfl
@[simp] theorem State.setDraws_ram (v : Nat) : (s.setDraws v).ram = s.ram := rfl
@[simp] theorem State.setDraws_cart (v : Nat) : (s.setDraws v).cart = s.cart := rfl
@[simp] theorem State.setDraws_prgRam (v : Nat) : (s.setDraws v).prgRam = s.prgRam := rfl
@[simp] theorem State.setDraws_chrRam (v : Nat) : (s.setDraws v).chrRam = s.chrRam := rfl
@[simp] theorem State.setDraws_vram (v : Nat) : (s.setDraws v).vram = s.vram := rfl
@[simp] theorem State.setDraws_ppu (v : Nat) : (s.setDraws v).ppu = s.ppu := rfl
@[simp] theorem State.setDraws_apu (v : Nat) : (s.setDraws v).apu = s.apu := rfl
@[simp] theorem State.setDraws_ports (v : Nat) : (s.setDraws v).ports = s.ports := rfl
@[simp] theorem State.setDraws_host (v : Nat) : (s.setDraws v).host = s.host := rfl
@[simp] theorem State.setDraws_out (v : Nat) : (s.setDraws v).out = s.out := rfl
@[simp] theorem State.setDraws_draws (v : Nat) : (s.setDraws v).draws = v := rfl

/-! ### The derived updates are the updates above -/

@[simp] theorem State.addStall_def (n : Nat) : s.addStall n = s.setStall (s.cpu.stall + n) := rfl
@[simp] theorem State.requestNmi_def : s.requestNmi = s.setNmi true := rfl
@[simp] theorem State.requestIrqIf_true : s.requestIrqIf true = s.setIrq true := rfl
@[simp] theorem State.requestIrqIf_false : s.requestIrqIf false = s := rfl
@[simp] theorem State.countDraw_def : s.countDraw = s.setDraws (s.draws + 1) := rfl
@[simp] theorem raiseFault_def (r : Fault) : raiseFault r s = s.setFault (some r) := rfl

/-- An IRQ request touches nothing but the latch. -/
theorem State.requestIrqIf_eq (b : Bool) : s.requestIrqIf b = s.setIrq (b || s.cpu.irqPending) := by
  cases b <;> rfl

/-! ### Sequencing of accesses -/

@[simp] theorem Access.andThen_ok {α β : Type} (v : α) (f : α → State → Access β) :
    (Access.ok v s).andThen f = f v s := rfl
@[simp] theorem Access.andThen_stop {α β : Type} (r : Fault) (f : α → State → Access β) :
    (Access.stop r s).andThen f = .stop r s := rfl
@[simp] theorem complete_ok (base extra : Nat) :
    complete base (.ok extra s) = .next (s.setStall (s.cpu.stall + (base + extra - 1))) := rfl
@[simp] theorem complete_stop (base : Nat) (r : Fault) :
    complete base (.stop r s) = .next (s.setFault (some r)) := rfl

/-- Every instruction ends in a next state: a fault is recorded in it, not lost. -/
theorem complete_is_next (base : Nat) (m : Access Nat) : ∃ t, complete base m = .next t := by
  cases m <;> simp

/-- If the sequence succeeds, its first part did. -/
theorem Access.andThen_eq_ok {α β : Type} {m : Access α} {f : α → State → Access β} {v : β} {t : State}
    (h : m.andThen f = .ok v t) : ∃ u s', m = .ok u s' ∧ f u s' = .ok v t := by
  cases m with
  | ok u s' => exact ⟨u, s', rfl, h⟩
  | stop r s' => cases h

/-- What holds of the state an access leaves, whether or not it faulted. -/
def Access.Leaves {α : Type} (P : State → Prop) : Access α → Prop
  | .ok _ s => P s
  | .stop _ s => P s

@[simp] theorem Access.leaves_ok {α : Type} (P : State → Prop) (v : α) : (Access.ok v s).Leaves P ↔ P s := Iff.rfl
@[simp] theorem Access.leaves_stop {α : Type} (P : State → Prop) (r : Fault) :
    (Access.stop (α := α) r s).Leaves P ↔ P s := Iff.rfl

/-- A property every part keeps holds after the sequence. -/
theorem Access.Leaves.andThen {α β : Type} {P : State → Prop} {m : Access α} {f : α → State → Access β}
    (hm : m.Leaves P) (hf : ∀ v s, P s → (f v s).Leaves P) : (m.andThen f).Leaves P := by
  cases m with
  | ok v s => exact hf v s hm
  | stop r s => exact hm

/-- An instruction's end keeps what stall and fault do not touch. -/
theorem complete_leaves {P : State → Prop} {base : Nat} {m : Access Nat} {t : State}
    (h : complete base m = .next t) (hm : m.Leaves P) (hstall : ∀ n s, P s → P (s.setStall n))
    (hfault : ∀ r s, P s → P (s.setFault r)) : P t := by
  cases m with
  | ok v s => simp only [complete_ok, Host.Outcome.next.injEq] at h; exact h ▸ hstall _ _ hm
  | stop r s => simp only [complete_stop, Host.Outcome.next.injEq] at h; exact h ▸ hfault _ _ hm

end Sys2Proof.Machine
end

