-- ==== Sys2Proof/Laws/Bus.lean ====
section
/-! SUPPORT. What a CPU-bus access can do: when it faults, what a read changes at most, that storage reads have no side
effect, and that the stack, zero-page and vector accesses of the operations are bus accesses (R13, R44). -/

namespace Sys2Proof.Machine

/-! ### When an access faults -/

theorem disabled_iff (a : Addr) : disabled a = true ↔ 0x4018 ≤ a.toNat ∧ a.toNat < 0x4020 := by
  simp [disabled]

/-- A read in the disabled range faults with no effect (R41). -/
theorem busRead_disabled {a : Addr} (h : disabled a = true) (s : State) :
    busRead a s = .stop (.invalidAddress a) s := by
  have h := (disabled_iff a).1 h
  unfold busRead
  rw [if_neg (by omega), if_neg (by omega), if_neg (by omega), if_pos (by omega)]

/-- A write in the disabled range faults with no effect (R41). -/
theorem busWrite_disabled {a : Addr} (h : disabled a = true) (v : Byte) (s : State) :
    busWrite a v s = .stop (.invalidAddress a) s := by
  have h := (disabled_iff a).1 h
  unfold busWrite
  rw [if_neg (by omega), if_neg (by omega), if_neg (by omega), if_pos (by omega)]

/-- Every other read returns a byte. -/
theorem busRead_enabled {a : Addr} (h : disabled a = false) (s : State) : ∃ v t, busRead a s = .ok v t := by
  have h : ¬(0x4018 ≤ a.toNat ∧ a.toNat < 0x4020) := fun c => by simp [(disabled_iff a).2 c] at h
  unfold busRead
  split
  · exact ⟨_, _, rfl⟩
  split
  · exact ⟨_, _, rfl⟩
  split
  · exact ⟨_, _, rfl⟩
  rw [if_neg (by omega)]
  exact ⟨_, _, rfl⟩

/-! ### What a read changes -/

theorem ReadEffect.refl (s : State) : ReadEffect s s :=
  ⟨s.ppu.vbl, s.ppu.w, s.ppu.rbuf, s.ppu.vaddr, s.apu.frameIrq, s.ports.shift1, s.ports.shift2, s.draws, rfl⟩

theorem ReadEffect.trans {s t u : State} (h : ReadEffect s t) (g : ReadEffect t u) : ReadEffect s u := by
  obtain ⟨a, b, c, d, e, f1, f2, n, rfl⟩ := h
  obtain ⟨a', b', c', d', e', f1', f2', n', rfl⟩ := g
  exact ⟨a', b', c', d', e', f1', f2', n', rfl⟩

theorem readPpu_effect (r : Nat) (s : State) : ReadEffect s (readPpu r s).2 := by
  unfold readPpu
  split
  · exact ⟨false, false, s.ppu.rbuf, s.ppu.vaddr, s.apu.frameIrq, s.ports.shift1, s.ports.shift2, s.draws + 1, rfl⟩
  · exact ReadEffect.refl s
  · unfold readPpuData
    dsimp only
    split
    · exact ⟨s.ppu.vbl, s.ppu.w, s.ppu.rbuf, _, s.apu.frameIrq, s.ports.shift1, s.ports.shift2, s.draws, rfl⟩
    · exact ⟨s.ppu.vbl, s.ppu.w, _, _, s.apu.frameIrq, s.ports.shift1, s.ports.shift2, s.draws, rfl⟩
  · exact ⟨s.ppu.vbl, s.ppu.w, s.ppu.rbuf, s.ppu.vaddr, s.apu.frameIrq, s.ports.shift1, s.ports.shift2, s.draws + 1, rfl⟩

theorem ioRead_effect (a : Addr) (s : State) : ReadEffect s (ioRead a s).2 := by
  have draw : ∀ p q : Byte, ReadEffect s ((s.setPorts { s.ports with shift1 := p, shift2 := q }).countDraw) := fun p q =>
    ⟨s.ppu.vbl, s.ppu.w, s.ppu.rbuf, s.ppu.vaddr, s.apu.frameIrq, p, q, s.draws + 1, rfl⟩
  unfold ioRead
  split
  · exact ⟨s.ppu.vbl, s.ppu.w, s.ppu.rbuf, s.ppu.vaddr, false, s.ports.shift1, s.ports.shift2, s.draws + 1, rfl⟩
  · unfold readPort1
    split
    · exact draw s.ports.shift1 s.ports.shift2
    · exact draw _ _
  · unfold readPort2
    split
    · unfold readPort2Standard
      split
      · exact draw s.ports.shift1 s.ports.shift2
      · exact draw _ _
    · exact draw s.ports.shift1 s.ports.shift2
  · exact draw s.ports.shift1 s.ports.shift2

theorem cartRead_effect (a : Addr) (s : State) : ReadEffect s (cartRead a s).2 := by
  unfold cartRead
  split
  · exact ⟨s.ppu.vbl, s.ppu.w, s.ppu.rbuf, s.ppu.vaddr, s.apu.frameIrq, s.ports.shift1, s.ports.shift2, s.draws + 1, rfl⟩
  split <;> exact ReadEffect.refl s

/-- A bus read that returns changes at most what R59 lists. -/
theorem busRead_effect {a : Addr} {s t : State} {v : Byte} (h : busRead a s = .ok v t) : ReadEffect s t := by
  unfold busRead at h
  split at h
  · cases h; exact ReadEffect.refl s
  split at h
  · cases h; exact readPpu_effect _ s
  split at h
  · cases h; exact ioRead_effect a s
  split at h
  · cases h
  · cases h; exact cartRead_effect a s

/-- A bus read that faults changes nothing. -/
theorem busRead_stop {a : Addr} {s t : State} {r : Fault} (h : busRead a s = .stop r t) :
    disabled a = true ∧ r = .invalidAddress a ∧ t = s := by
  unfold busRead at h
  split at h
  · cases h
  split at h
  · cases h
  split at h
  · cases h
  split at h
  · cases h
    exact ⟨(disabled_iff a).2 (by omega), rfl, rfl⟩
  · cases h

/-- A read leaves the CPU's own state alone. -/
theorem ReadEffect.cpu {s t : State} (h : ReadEffect s t) : t.cpu = s.cpu := by
  obtain ⟨a, b, c, d, e, f, g, n, rfl⟩ := h; rfl

theorem ReadEffect.memories {s t : State} (h : ReadEffect s t) : SameMemories s t := by
  obtain ⟨a, b, c, d, e, f, g, n, rfl⟩ := h; exact ⟨rfl, rfl, rfl, rfl, rfl, rfl, rfl⟩

/-- Storage depends on RAM, PRG RAM and the cartridge only. -/
theorem peek_congr {s t : State} (hr : t.ram = s.ram) (hp : t.prgRam = s.prgRam) (hc : t.cart = s.cart) (a : Addr) :
    peek a t = peek a s := by
  unfold peek; rw [hr, hp, hc]

theorem ReadEffect.storage {s t : State} (h : ReadEffect s t) : SameStorage s t := fun a => by
  obtain ⟨h1, h2, h3, -⟩ := h.memories
  exact peek_congr h1 h3 h2 a

/-! ### Storage -/

/-- An address that stores a byte reads as that byte, with no side effect (R38, R50). -/
theorem busRead_storage {a : Addr} {s : State} {v : Byte} (h : peek a s = some v) : busRead a s = .ok v s := by
  unfold peek storedCell at h
  unfold busRead
  by_cases h1 : a.toNat < 0x2000
  · simp only [h1, if_true, Option.some.injEq] at h ⊢
    rw [← h]; rfl
  · by_cases h2 : a.toNat < 0x6000
    · simp [h1, h2] at h
    · rw [if_neg h1, if_neg (by omega), if_neg (by omega), if_neg (by omega)]
      by_cases h3 : a.toNat < 0x8000
      · simp only [h1, h2, h3, if_false, if_true, Option.some.injEq] at h
        simp [cartRead, h2, h3, ← h]
      · simp only [h1, h2, h3, if_false, Option.some.injEq] at h
        simp [cartRead, h2, h3, Cart.readPrg, ← h]

/-- The CPU registers do not matter to storage. -/
@[simp] theorem peek_setPc (a v : Addr) (s : State) : peek a (s.setPc v) = peek a s := rfl
@[simp] theorem peek_setCpu (a : Addr) (c : Cpu) (s : State) : peek a { s with cpu := c } = peek a s := rfl

/-! ### The operations' own accesses are bus accesses -/

theorem toNat_pair (hi lo : Byte) : (pair hi lo).toNat = hi.toNat * 256 + lo.toNat := by
  rw [pair, BitVec.toNat_append, Nat.shiftLeft_eq, Nat.mul_comm, ← Nat.two_pow_add_eq_or_of_lt lo.isLt]

theorem stackAddr_ram (sp : Byte) : (stackAddr sp).toNat < 0x2000 := by
  have : (0x01 : Byte).toNat = 1 := rfl
  rw [stackAddr, toNat_pair, this]
  omega

/-- `Push(v)` is a bus write at `0x0100 | S` and then the decrement (R13). -/
theorem push_is_busWrite (v : Byte) (s : State) :
    busWrite (stackAddr s.cpu.s) v s = .ok () (writeRam (stackAddr s.cpu.s) v s) := by
  simp [busWrite, stackAddr_ram]

/-- `Pull()` reads the bus at the incremented S (R13). -/
theorem pull_is_busRead (s : State) : busRead (stackAddr (s.cpu.s + 1)) (afterPull s) = .ok (pulled s) (afterPull s) := by
  simp [busRead, stackAddr_ram]; rfl

theorem zext16_ram (b : Byte) : (zext16 b).toNat < 0x2000 := by
  simp [zext16]; omega

/-- A zero-page pointer byte is a bus read with no side effect (R81, R82). -/
theorem zeroPageByte_is_busRead (b : Byte) (s : State) : busRead (zext16 b) s = .ok (zeroPageByte b s) s := by
  simp [busRead, zext16_ram]; rfl

/-- An address of PRG ROM reads the mapper's byte with no side effect (R50). -/
theorem busRead_prg {a : Addr} (h : 0x8000 ≤ a.toNat) (s : State) : busRead a s = .ok (s.cart.readPrg a) s := by
  unfold busRead
  rw [if_neg (by omega), if_neg (by omega), if_neg (by omega), if_neg (by omega)]
  simp [cartRead, show ¬a.toNat < 0x6000 by omega, show ¬a.toNat < 0x8000 by omega]

/-- The three vectors are read through the mapper, low byte at the vector (R44). -/
theorem readVector_is_Read16 (v : Addr) (h : v = nmiVector ∨ v = resetVector ∨ v = irqVector) (s : State) :
    ∃ lo hi, busRead v s = .ok lo s ∧ busRead (v + 1) s = .ok hi s ∧ readVector v s = pair hi lo := by
  refine ⟨s.cart.readPrg v, s.cart.readPrg (v + 1), busRead_prg ?_ s, busRead_prg ?_ s, rfl⟩ <;>
    rcases h with rfl | rfl | rfl <;> decide

end Sys2Proof.Machine
end

