-- ==== Sys2Proof/Laws/Decode.lean ====
section
/-! SUPPORT. The opcode table read from both sides: the entry of an instruction's opcode makes that instruction from its
operand bytes, an entry makes only instructions with its opcode, and the empty entries are R90's; the split of an address. -/

namespace Sys2Proof

/-! ### Bytes of an address -/

theorem pair_high_low (a : Addr) : pair (highByte a) (lowByte a) = a := by
  apply BitVec.eq_of_toNat_eq
  rw [pair, BitVec.toNat_append, Nat.shiftLeft_eq, Nat.mul_comm, ← Nat.two_pow_add_eq_or_of_lt (lowByte a).isLt]
  simp only [highByte, lowByte, BitVec.extractLsb'_toNat, Nat.shiftRight_eq_div_pow]
  have := a.isLt
  omega

theorem lowByte_pair (h l : Byte) : lowByte (pair h l) = l := by
  apply BitVec.eq_of_toNat_eq
  rw [lowByte, BitVec.extractLsb'_toNat, pair, BitVec.toNat_append, Nat.shiftLeft_eq, Nat.mul_comm,
    ← Nat.two_pow_add_eq_or_of_lt l.isLt, Nat.shiftRight_eq_div_pow]
  omega

theorem highByte_pair (h l : Byte) : highByte (pair h l) = h := by
  apply BitVec.eq_of_toNat_eq
  rw [highByte, BitVec.extractLsb'_toNat, pair, BitVec.toNat_append, Nat.shiftLeft_eq, Nat.mul_comm,
    ← Nat.two_pow_add_eq_or_of_lt l.isLt, Nat.shiftRight_eq_div_pow]
  omega

/-! ### The opcode table -/

/-- The entry makes the instruction from exactly its operand bytes. -/
def OpForm.Makes (i : Instr) : OpForm → Prop
  | .none j => j = i ∧ i.operand.bytes = []
  | .immediate mk => ∃ b, mk b = i ∧ i.operand.bytes = [b]
  | .byte mk => ∃ b, mk b = i ∧ i.operand.bytes = [b]
  | .word mk => ∃ a, mk a = i ∧ i.operand.bytes = [lowByte a, highByte a]

/-- The entry an instruction's opcode selects. -/
def Instr.form : Instr → OpForm
  | .brk => .none .brk
  | .oraIndX _ => .byte .oraIndX
  | .oraZp _ => .byte .oraZp
  | .aslZp _ => .byte .aslZp
  | .php => .none .php
  | .oraImm _ => .immediate .oraImm
  | .aslAcc => .none .aslAcc
  | .oraAbs _ => .word .oraAbs
  | .aslAbs _ => .word .aslAbs
  | .bpl _ => .byte .bpl
  | .oraIndY _ => .byte .oraIndY
  | .oraZpX _ => .byte .oraZpX
  | .aslZpX _ => .byte .aslZpX
  | .clc => .none .clc
  | .oraAbsY _ => .word .oraAbsY
  | .oraAbsX _ => .word .oraAbsX
  | .aslAbsX _ => .word .aslAbsX
  | .jsr _ => .word .jsr
  | .andIndX _ => .byte .andIndX
  | .bitZp _ => .byte .bitZp
  | .andZp _ => .byte .andZp
  | .rolZp _ => .byte .rolZp
  | .plp => .none .plp
  | .andImm _ => .immediate .andImm
  | .rolAcc => .none .rolAcc
  | .bitAbs _ => .word .bitAbs
  | .andAbs _ => .word .andAbs
  | .rolAbs _ => .word .rolAbs
  | .bmi _ => .byte .bmi
  | .andIndY _ => .byte .andIndY
  | .andZpX _ => .byte .andZpX
  | .rolZpX _ => .byte .rolZpX
  | .sec => .none .sec
  | .andAbsY _ => .word .andAbsY
  | .andAbsX _ => .word .andAbsX
  | .rolAbsX _ => .word .rolAbsX
  | .rti => .none .rti
  | .eorIndX _ => .byte .eorIndX
  | .eorZp _ => .byte .eorZp
  | .lsrZp _ => .byte .lsrZp
  | .pha => .none .pha
  | .eorImm _ => .immediate .eorImm
  | .lsrAcc => .none .lsrAcc
  | .jmpAbs _ => .word .jmpAbs
  | .eorAbs _ => .word .eorAbs
  | .lsrAbs _ => .word .lsrAbs
  | .bvc _ => .byte .bvc
  | .eorIndY _ => .byte .eorIndY
  | .eorZpX _ => .byte .eorZpX
  | .lsrZpX _ => .byte .lsrZpX
  | .cli => .none .cli
  | .eorAbsY _ => .word .eorAbsY
  | .eorAbsX _ => .word .eorAbsX
  | .lsrAbsX _ => .word .lsrAbsX
  | .rts => .none .rts
  | .adcIndX _ => .byte .adcIndX
  | .adcZp _ => .byte .adcZp
  | .rorZp _ => .byte .rorZp
  | .pla => .none .pla
  | .adcImm _ => .immediate .adcImm
  | .rorAcc => .none .rorAcc
  | .jmpInd _ => .word .jmpInd
  | .adcAbs _ => .word .adcAbs
  | .rorAbs _ => .word .rorAbs
  | .bvs _ => .byte .bvs
  | .adcIndY _ => .byte .adcIndY
  | .adcZpX _ => .byte .adcZpX
  | .rorZpX _ => .byte .rorZpX
  | .sei => .none .sei
  | .adcAbsY _ => .word .adcAbsY
  | .adcAbsX _ => .word .adcAbsX
  | .rorAbsX _ => .word .rorAbsX
  | .staIndX _ => .byte .staIndX
  | .styZp _ => .byte .styZp
  | .staZp _ => .byte .staZp
  | .stxZp _ => .byte .stxZp
  | .dey => .none .dey
  | .txa => .none .txa
  | .styAbs _ => .word .styAbs
  | .staAbs _ => .word .staAbs
  | .stxAbs _ => .word .stxAbs
  | .bcc _ => .byte .bcc
  | .staIndY _ => .byte .staIndY
  | .styZpX _ => .byte .styZpX
  | .staZpX _ => .byte .staZpX
  | .stxZpY _ => .byte .stxZpY
  | .tya => .none .tya
  | .staAbsY _ => .word .staAbsY
  | .txs => .none .txs
  | .staAbsX _ => .word .staAbsX
  | .ldyImm _ => .immediate .ldyImm
  | .ldaIndX _ => .byte .ldaIndX
  | .ldxImm _ => .immediate .ldxImm
  | .ldyZp _ => .byte .ldyZp
  | .ldaZp _ => .byte .ldaZp
  | .ldxZp _ => .byte .ldxZp
  | .tay => .none .tay
  | .ldaImm _ => .immediate .ldaImm
  | .tax => .none .tax
  | .ldyAbs _ => .word .ldyAbs
  | .ldaAbs _ => .word .ldaAbs
  | .ldxAbs _ => .word .ldxAbs
  | .bcs _ => .byte .bcs
  | .ldaIndY _ => .byte .ldaIndY
  | .ldyZpX _ => .byte .ldyZpX
  | .ldaZpX _ => .byte .ldaZpX
  | .ldxZpY _ => .byte .ldxZpY
  | .clv => .none .clv
  | .ldaAbsY _ => .word .ldaAbsY
  | .tsx => .none .tsx
  | .ldyAbsX _ => .word .ldyAbsX
  | .ldaAbsX _ => .word .ldaAbsX
  | .ldxAbsY _ => .word .ldxAbsY
  | .cpyImm _ => .immediate .cpyImm
  | .cmpIndX _ => .byte .cmpIndX
  | .cpyZp _ => .byte .cpyZp
  | .cmpZp _ => .byte .cmpZp
  | .decZp _ => .byte .decZp
  | .iny => .none .iny
  | .cmpImm _ => .immediate .cmpImm
  | .dex => .none .dex
  | .cpyAbs _ => .word .cpyAbs
  | .cmpAbs _ => .word .cmpAbs
  | .decAbs _ => .word .decAbs
  | .bne _ => .byte .bne
  | .cmpIndY _ => .byte .cmpIndY
  | .cmpZpX _ => .byte .cmpZpX
  | .decZpX _ => .byte .decZpX
  | .cld => .none .cld
  | .cmpAbsY _ => .word .cmpAbsY
  | .cmpAbsX _ => .word .cmpAbsX
  | .decAbsX _ => .word .decAbsX
  | .cpxImm _ => .immediate .cpxImm
  | .sbcIndX _ => .byte .sbcIndX
  | .cpxZp _ => .byte .cpxZp
  | .sbcZp _ => .byte .sbcZp
  | .incZp _ => .byte .incZp
  | .inx => .none .inx
  | .sbcImm _ => .immediate .sbcImm
  | .nop => .none .nop
  | .cpxAbs _ => .word .cpxAbs
  | .sbcAbs _ => .word .sbcAbs
  | .incAbs _ => .word .incAbs
  | .beq _ => .byte .beq
  | .sbcIndY _ => .byte .sbcIndY
  | .sbcZpX _ => .byte .sbcZpX
  | .incZpX _ => .byte .incZpX
  | .sed => .none .sed
  | .sbcAbsY _ => .word .sbcAbsY
  | .sbcAbsX _ => .word .sbcAbsX
  | .incAbsX _ => .word .incAbsX

theorem opForm_eq_form (i : Instr) : opForm i.opcode = some i.form := by cases i <;> rfl

theorem form_makes (i : Instr) : i.form.Makes i := by
  cases i <;> first
    | exact ⟨rfl, rfl⟩
    | exact ⟨_, rfl, rfl⟩

/-- The table entry of an instruction's opcode makes the instruction (R88). -/
theorem opForm_opcode (i : Instr) : ∃ f, opForm i.opcode = some f ∧ f.Makes i := ⟨_, opForm_eq_form i, form_makes i⟩

/-- The entry of opcode `op` makes instructions with that opcode only. -/
def OpForm.Has (op : Byte) : OpForm → Prop
  | .none i => i.opcode = op ∧ i.operand.bytes = []
  | .immediate mk => ∀ b, (mk b).opcode = op ∧ (mk b).operand.bytes = [b]
  | .byte mk => ∀ b, (mk b).opcode = op ∧ (mk b).operand.bytes = [b]
  | .word mk => ∀ a, (mk a).opcode = op ∧ (mk a).operand.bytes = [lowByte a, highByte a]

theorem opForm_has {op : Byte} {f : OpForm} (h : opForm op = some f) : f.Has op := by
  have key : op = BitVec.ofNat 8 op.toNat := by simp
  unfold opForm at h
  split at h <;> rename_i heq <;> first
    | (cases h; done)
    | (cases h; rw [key, heq]; first | exact ⟨rfl, rfl⟩ | exact fun _ => ⟨rfl, rfl⟩)

set_option maxRecDepth 100000 in
theorem opForm_none_table : ∀ n : Fin 256, (opForm (BitVec.ofNat 8 n)).isNone = invalidOpcodes.contains n.val := by decide

/-- The empty entries are the 105 bytes of R90. -/
theorem opForm_eq_none_iff (op : Byte) : opForm op = none ↔ op.toNat ∈ invalidOpcodes := by
  have h := opForm_none_table ⟨op.toNat, op.isLt⟩
  simp only [BitVec.ofNat_toNat, BitVec.setWidth_eq] at h
  rw [← Option.isNone_iff_eq_none, h, List.contains_iff_mem]

end Sys2Proof
end

