-- ==== Sys2Proof/Laws/Flags.lean ====
section
/-! SUPPORT. The bits of P after each flag update, and that every computed P keeps bit 5 at 1 and B at 0. -/

namespace Sys2Proof.Machine

/-- Every bit of P after a flag write. -/
theorem putFlag_bit (f : Flag) (v : Bool) (p : Byte) (k : Nat) (hk : k < 8) :
    (putFlag f v p).getLsbD k = if k = flagBit f then v else p.getLsbD k := by
  unfold putFlag flagMask
  cases v
  · by_cases h : k = flagBit f
    · simp [h]
    · simp [h, hk]
  · by_cases h : k = flagBit f
    · have : flagBit f < 8 := h ▸ hk
      simp [h, this]
    · have h' : flagBit f ≠ k := fun e => h e.symm
      simp [h, h']

theorem flagBit_lt (f : Flag) : flagBit f < 8 := by cases f <;> decide

theorem flagBit_injective {f g : Flag} (h : flagBit f = flagBit g) : f = g := by
  revert h; cases f <;> cases g <;> decide

@[simp] theorem getFlag_putFlag_same (f : Flag) (v : Bool) (p : Byte) : getFlag f (putFlag f v p) = v := by
  simp [getFlag, putFlag_bit _ _ _ _ (flagBit_lt f)]

/-- A flag write changes no other flag. -/
theorem getFlag_putFlag_other {f g : Flag} (h : g ≠ f) (v : Bool) (p : Byte) :
    getFlag g (putFlag f v p) = getFlag g p := by
  have hb : ¬flagBit g = flagBit f := fun e => h (flagBit_injective e)
  simp [getFlag, putFlag_bit _ _ _ _ (flagBit_lt g), hb]

/-- Writing any flag but B keeps P in form. -/
theorem StatusWf.putFlag {p : Byte} (h : StatusWf p) {f : Flag} (hf : f ≠ .b) (v : Bool) :
    StatusWf (putFlag f v p) := by
  unfold StatusWf at *
  rw [putFlag_bit _ _ _ _ (by decide), putFlag_bit _ _ _ _ (by decide)]
  cases f <;> simp_all [flagBit]

theorem StatusWf.setZN {p : Byte} (h : StatusWf p) (v : Byte) : StatusWf (setZN v p) :=
  (h.putFlag (by decide) _).putFlag (by decide) _

theorem StatusWf.aluStatus {p : Byte} (h : StatusWf p) (o : AluOut) : StatusWf (aluStatus o p) :=
  ((h.putFlag (by decide) _).putFlag (by decide) _).setZN _

theorem StatusWf.compareStatus {p : Byte} (h : StatusWf p) (r m : Byte) : StatusWf (compareStatus r m p) :=
  ((h.putFlag (by decide) _).putFlag (by decide) _).putFlag (by decide) _

theorem StatusWf.bitStatus {p : Byte} (h : StatusWf p) (a m : Byte) : StatusWf (bitStatus a m p) :=
  ((h.putFlag (by decide) _).putFlag (by decide) _).putFlag (by decide) _

theorem StatusWf.rmwCarry {p : Byte} (h : StatusWf p) (o : RmwOut) : StatusWf (rmwCarry o p) := by
  unfold Machine.rmwCarry
  split
  · exact h.putFlag (by decide) _
  · exact h

/-- Whatever byte is pulled, P comes out in form (R111, R150). -/
theorem statusWf_pulledStatus (v : Byte) : StatusWf (pulledStatus v) := by
  simp [StatusWf, pulledStatus]

end Sys2Proof.Machine
end

