-- ==== Sys2Proof/Laws/Keeps.lean ====
section
/-! SUPPORT. What every operation below a whole step keeps: the form of the state (`StateWf`) and what the CPU never moves
(the PPU's position, the APU's step count, the tick count, the cartridge, the host's side). -/

namespace Sys2Proof.Machine

/-! ### Updates -/

theorem StateWf.setP {s : State} (h : StateWf s) {v : Byte} (hv : StatusWf v) : StateWf (s.setP v) :=
  ⟨h.1, hv, h.2.2⟩

theorem StateWf.putF {s : State} (h : StateWf s) {f : Flag} (hf : f ≠ .b) (v : Bool) : StateWf (s.putF f v) :=
  h.setP (h.2.1.putFlag hf v)

theorem StateWf.setZN {s : State} (h : StateWf s) (v : Byte) : StateWf (s.setZN v) := h.setP (h.2.1.setZN v)

theorem StateWf.setRam {s : State} (h : StateWf s) {m : Memory} (hm : Memory.wf Config.ramSize m = true) :
    StateWf (s.setRam m) := ⟨⟨hm, h.1.2⟩, h.2⟩

theorem StateWf.setPrgRam {s : State} (h : StateWf s) {m : Memory} (hm : Memory.wf Config.prgRamSize m = true) :
    StateWf (s.setPrgRam m) := ⟨⟨h.1.1, hm, h.1.2.2⟩, h.2⟩

theorem StateWf.setChrRam {s : State} (h : StateWf s) {m : Memory} (hm : Memory.wf Config.chrRamSize m = true) :
    StateWf (s.setChrRam m) := ⟨⟨h.1.1, h.1.2.1, hm, h.1.2.2.2⟩, h.2⟩

theorem StateWf.setVram {s : State} (h : StateWf s) {m : Memory}
    (hm : Memory.wf (vramSize s.cart.mirroring) m = true) : StateWf (s.setVram m) :=
  ⟨⟨h.1.1, h.1.2.1, h.1.2.2.1, hm, h.1.2.2.2.2⟩, h.2⟩

theorem StateWf.setPpu {s : State} (h : StateWf s) {p : Ppu} (ho : Memory.wf Config.oamSize p.oam = true)
    (hp : Memory.wf Config.paletteSize p.palette = true) (hw : PpuWf p) : StateWf (s.setPpu p) :=
  ⟨⟨h.1.1, h.1.2.1, h.1.2.2.1, h.1.2.2.2.1, ho, hp, h.1.2.2.2.2.2.2⟩, h.2.1, hw, h.2.2.2⟩

theorem StateWf.setApu {s : State} (h : StateWf s) {a : Apu} (ha : ApuWf a) : StateWf (s.setApu a) :=
  ⟨h.1, h.2.1, h.2.2.1, ha⟩

theorem StateWf.requestIrqIf {s : State} (h : StateWf s) (b : Bool) : StateWf (s.requestIrqIf b) := by
  cases b <;> exact h

/-- A bus read keeps the form: it changes no memory, no part of P, no position and no counter. -/
theorem ReadEffect.stateWf {s t : State} (h : ReadEffect s t) (hs : StateWf s) : StateWf t := by
  obtain ⟨a, b, c, d, e, f, g, n, rfl⟩ := h; exact hs

theorem busRead_keeps {s : State} (h : StateWf s) (a : Addr) : (busRead a s).Leaves StateWf := by
  cases hr : busRead a s with
  | ok v t => exact (busRead_effect hr).stateWf h
  | stop r t => rw [(busRead_stop hr).2.2]; exact h

/-! ### RAM and the stack -/

theorem StateWf.writeRam {s : State} (h : StateWf s) (a : Addr) (v : Byte) : StateWf (writeRam a v s) :=
  h.setRam (Memory.write_wf (Nat.mod_lt _ (by decide)) h.1.1)

theorem StateWf.push {s : State} (h : StateWf s) (v : Byte) : StateWf (push v s) :=
  show StateWf (Machine.writeRam (stackAddr s.cpu.s) v s) from h.writeRam _ _

theorem StateWf.pushAddr {s : State} (h : StateWf s) (a : Addr) : StateWf (pushAddr a s) := (h.push _).push _

theorem StateWf.setPc {s : State} (h : StateWf s) (v : Addr) : StateWf (s.setPc v) := h

theorem StateWf.afterPull {s : State} (h : StateWf s) : StateWf (afterPull s) := h

theorem StateWf.enterInterrupt {s : State} (h : StateWf s) (v : Addr) : StateWf (enterInterrupt v s) := by
  unfold Machine.enterInterrupt
  exact (((h.pushAddr _).push _).putF (by decide) _).setPc _

theorem StateWf.returnFromInterrupt {s : State} (h : StateWf s) : StateWf (returnFromInterrupt s) := by
  unfold Machine.returnFromInterrupt
  exact ((h.afterPull.setP (statusWf_pulledStatus _)).afterPull.afterPull).setPc _

/-! ### The video bus and the PPU registers -/

theorem foldVideo_nametable {a : Nat} (h1 : ¬foldVideo a < 0x2000) (h2 : foldVideo a < 0x3000) (m : Mirroring) :
    ntIndex m (foldVideo a) < vramSize m := by
  generalize foldVideo a = b at *
  cases m with
  | horizontal => unfold ntIndex vramSize; dsimp only; omega
  | vertical => unfold ntIndex vramSize; dsimp only; omega
  | singleScreen k => have := k.isLt; unfold ntIndex vramSize; dsimp only; omega
  | fourScreen => unfold ntIndex vramSize; dsimp only; omega

theorem palIndex_lt (a : Nat) : palIndex a < Config.paletteSize := by
  unfold palIndex Config.paletteSize
  dsimp only
  split <;> omega

theorem StateWf.vwrite {s : State} (h : StateWf s) (a : Nat) (v : Byte) : StateWf (vwrite a v s) := by
  unfold Machine.vwrite patternWrite
  dsimp only
  split
  · split
    · exact h.setChrRam (Memory.write_wf (by unfold Config.chrRamSize; assumption) h.1.2.2.1)
    · exact h
  split
  · exact h.setVram (Memory.write_wf (foldVideo_nametable (by assumption) (by assumption) _) h.1.2.2.2.1)
  · exact h.setPpu h.1.2.2.2.2.1 (Memory.write_wf (palIndex_lt _) h.1.2.2.2.2.2.1) h.2.2.1

theorem StateWf.writePpu {s : State} (h : StateWf s) (r : Nat) (v : Byte) : StateWf (writePpu r v s) := by
  unfold Machine.writePpu
  split
  · unfold writePpuCtrl; dsimp only; split <;> exact h
  · exact h
  · exact h
  · exact h.setPpu (Memory.write_wf (BitVec.isLt _) h.1.2.2.2.2.1) h.1.2.2.2.2.2.1 h.2.2.1
  · unfold writePpuScroll; split <;> exact h
  · unfold writePpuAddr; split <;> exact h
  · exact (show StateWf (State.setPpu _ _) from h.vwrite _ _)
  · exact h

/-! ### The APU's registers -/

theorem gateLen_false (len : BitVec 8) : gateLen false len = 0 := rfl
theorem lengthLoad_false (v : Byte) : lengthLoad false v = 0 := rfl

/-- A length clock leaves an empty counter empty. -/
theorem lengthClock_zero (halt : Bool) : lengthClock halt 0 = 0 := by cases halt <;> rfl

theorem quarterFrame_wf {a : Apu} (h : ApuWf a) : ApuWf (quarterFrame a) := by
  have ht : (linearClock a.tri).len = a.tri.len := by
    unfold linearClock; dsimp only; split <;> split <;> (try split) <;> rfl
  exact ⟨h.1, h.2.1, h.2.2.1, h.2.2.2.1, h.2.2.2.2.1, h.2.2.2.2.2.1,
    fun e => (show (linearClock a.tri).len = 0 from ht.trans (h.2.2.2.2.2.2.1 e)), h.2.2.2.2.2.2.2⟩

theorem sweepClock_len (id : PulseId) (p : Pulse) : (sweepClock id p).len = p.len := by
  unfold sweepClock; dsimp only; split <;> split <;> rfl

theorem pulseHalf_len (id : PulseId) (p : Pulse) : (pulseHalf id p).len = lengthClock p.env.lenHalt p.len :=
  sweepClock_len _ _

theorem halfFrame_wf {a : Apu} (h : ApuWf a) : ApuWf (halfFrame a) := by
  obtain ⟨h1, h2, h3, h4, h5, h6, h7, h8⟩ := h
  refine ⟨h1, h2, h3, h4, fun e => ?_, fun e => ?_, fun e => ?_, fun e => ?_⟩
  · show (pulseHalf .p1 a.p1).len = 0
    rw [pulseHalf_len, h5 e, lengthClock_zero]
  · show (pulseHalf .p2 a.p2).len = 0
    rw [pulseHalf_len, h6 e, lengthClock_zero]
  · show lengthClock a.tri.linCtrl a.tri.len = 0
    rw [h7 e, lengthClock_zero]
  · show lengthClock a.noise.env.lenHalt a.noise.len = 0
    rw [h8 e, lengthClock_zero]

@[simp] theorem quarterFrame_apuCycle (a : Apu) : (quarterFrame a).apuCycle = a.apuCycle := rfl
@[simp] theorem halfFrame_apuCycle (a : Apu) : (halfFrame a).apuCycle = a.apuCycle := rfl

theorem pulseWrite_len {e : Bool} {r : Nat} {v : Byte} {p : Pulse} (he : e = false) (hp : p.len = 0) :
    (pulseWrite e r v p).len = 0 := by
  subst he
  unfold pulseWrite
  split <;> first | exact hp | rfl

theorem dmcWrite_wf (r : Nat) (v : Byte) (d : Dmc) :
    (dmcWrite r v d).bitsLeft = d.bitsLeft ∧ (dmcWrite r v d).curAddr = d.curAddr := by
  unfold dmcWrite; split <;> exact ⟨rfl, rfl⟩

theorem channelWrite_wf {a : Apu} (h : ApuWf a) (r : Nat) (v : Byte) : ApuWf (channelWrite r v a) := by
  obtain ⟨h1, h2, h3, h4, h5, h6, h7, h8⟩ := h
  unfold channelWrite
  split
  · exact ⟨h1, h2, h3, h4, fun e => pulseWrite_len e (h5 e), h6, h7, h8⟩
  split
  · exact ⟨h1, h2, h3, h4, h5, fun e => pulseWrite_len e (h6 e), h7, h8⟩
  split
  · exact ⟨h1, h2, h3, h4, h5, h6, h7, h8⟩
  · exact ⟨h1, h2, h3, h4, h5, h6, h7, h8⟩
  · exact ⟨h1, h2, h3, h4, h5, h6, fun e => by dsimp only at e ⊢; rw [e]; rfl, h8⟩
  · exact ⟨h1, h2, h3, h4, h5, h6, h7, h8⟩
  · exact ⟨h1, h2, h3, h4, h5, h6, h7, h8⟩
  · exact ⟨h1, h2, h3, h4, h5, h6, h7, fun e => by dsimp only at e ⊢; rw [e]; rfl⟩
  · have hd := dmcWrite_wf 0 v a.dmc
    exact ⟨h1, hd.1 ▸ h2, hd.2 ▸ h3, h4, h5, h6, h7, h8⟩
  · have hd := dmcWrite_wf 1 v a.dmc
    exact ⟨h1, hd.1 ▸ h2, hd.2 ▸ h3, h4, h5, h6, h7, h8⟩
  · have hd := dmcWrite_wf 2 v a.dmc
    exact ⟨h1, hd.1 ▸ h2, hd.2 ▸ h3, h4, h5, h6, h7, h8⟩
  · have hd := dmcWrite_wf 3 v a.dmc
    exact ⟨h1, hd.1 ▸ h2, hd.2 ▸ h3, h4, h5, h6, h7, h8⟩
  · exact ⟨h1, h2, h3, h4, h5, h6, h7, h8⟩

@[simp] theorem channelWrite_apuCycle (r : Nat) (v : Byte) (a : Apu) : (channelWrite r v a).apuCycle = a.apuCycle := by
  unfold channelWrite
  split
  · rfl
  split
  · rfl
  split <;> rfl

/-- A sample starts in 0xC000–0xFFC0 (R198). -/
theorem dmcStart_ge (d : Dmc) : 0x8000 ≤ (dmcStart d).toNat := by
  have h := d.sampleAddrReg.isLt
  have hc : (0xC000 : Addr).toNat = 0xC000 := rfl
  simp only [dmcStart, zext16, BitVec.toNat_add, BitVec.toNat_shiftLeft, BitVec.toNat_setWidth, Nat.shiftLeft_eq, hc]
  omega

theorem dmcEnable_wf (on : Bool) (d : Dmc) (h : 0x8000 ≤ d.curAddr.toNat) :
    (dmcEnable on d).bitsLeft = d.bitsLeft ∧ 0x8000 ≤ (dmcEnable on d).curAddr.toNat := by
  unfold dmcEnable
  dsimp only
  split
  · exact ⟨rfl, h⟩
  split
  · exact ⟨rfl, dmcStart_ge d⟩
  · exact ⟨rfl, h⟩

theorem enableWrite_wf {a : Apu} (h : ApuWf a) (v : Byte) : ApuWf (enableWrite v a) := by
  obtain ⟨h1, h2, h3, h4, -⟩ := h
  have hd := dmcEnable_wf (bitOf v 4) a.dmc h3
  refine ⟨h1, hd.1 ▸ h2, hd.2, h4, fun e => ?_, fun e => ?_, fun e => ?_, fun e => ?_⟩ <;>
    · simp only [enableWrite] at e ⊢
      rw [e]; rfl

theorem frameCounterWrite_wf {a : Apu} (h : ApuWf a) (v : Byte) : ApuWf (frameCounterWrite v a) := by
  have h' : ApuWf { a with fsMode := bitOf v 7, irqInhibit := bitOf v 6
                           frameIrq := if bitOf v 6 then false else a.frameIrq, fsCounter := 0 } :=
    ⟨(show 0 < sequenceLength (bitOf v 7) by generalize bitOf v 7 = b; cases b <;> decide), h.2⟩
  unfold frameCounterWrite
  dsimp only
  split
  · exact halfFrame_wf (quarterFrame_wf h')
  · exact h'

@[simp] theorem frameCounterWrite_apuCycle (v : Byte) (a : Apu) : (frameCounterWrite v a).apuCycle = a.apuCycle := by
  unfold frameCounterWrite; dsimp only; split <;> rfl

/-! ### Bus writes -/

theorem oamDmaCopy_keeps (v : Byte) : ∀ (n : Nat) {s : State}, StateWf s → (oamDmaCopy v n s).Leaves StateWf
  | 0, _, h => h
  | n + 1, _, h => (busRead_keeps h _).andThen fun _ _ ht =>
      oamDmaCopy_keeps v n (ht.setPpu (Memory.write_wf (BitVec.isLt _) ht.1.2.2.2.2.1) ht.1.2.2.2.2.2.1 ht.2.2.1)

theorem oamDma_keeps {s : State} (h : StateWf s) (v : Byte) : (oamDma v s).Leaves StateWf :=
  (oamDmaCopy_keeps v 256 h).andThen fun _ _ ht => ht

theorem ioWrite_keeps {s : State} (h : StateWf s) (a : Addr) (v : Byte) : (ioWrite a v s).Leaves StateWf := by
  unfold ioWrite
  split
  · exact oamDma_keeps h v
  · exact h.setApu (enableWrite_wf h.2.2.2 v)
  · unfold writeStrobe; dsimp only; split <;> exact h
  · exact h.setApu (frameCounterWrite_wf h.2.2.2 v)
  · exact h.setApu (channelWrite_wf h.2.2.2 _ v)

theorem StateWf.cartWrite {s : State} (h : StateWf s) (a : Addr) (v : Byte) : StateWf (cartWrite a v s) := by
  unfold Machine.cartWrite
  split
  · exact h.setPrgRam (Memory.write_wf (by unfold prgRamIndex Config.prgRamSize; omega) h.1.2.1)
  · exact h

theorem busWrite_keeps {s : State} (h : StateWf s) (a : Addr) (v : Byte) : (busWrite a v s).Leaves StateWf := by
  unfold busWrite
  split
  · exact h.writeRam a v
  split
  · exact h.writePpu _ v
  split
  · exact ioWrite_keeps h a v
  split
  · exact h
  · exact h.cartWrite a v

/-! ### Instructions -/

theorem loadPlace_keeps {s : State} (h : StateWf s) (p : Place) : (loadPlace p s).Leaves StateWf := by
  cases p with
  | none => exact h
  | acc => exact h
  | value b => exact h
  | mem a => exact busRead_keeps h a

theorem storePlace_keeps {s : State} (h : StateWf s) (p : Place) (v : Byte) : (storePlace p v s).Leaves StateWf := by
  cases p with
  | none => exact h
  | acc => exact h
  | value b => exact h
  | mem a => exact busWrite_keeps h a v

theorem readInstr_keeps {m : Operand} {base : Nat} {use : Byte → State → State}
    (huse : ∀ v s, StateWf s → StateWf (use v s)) {s t : State} (h : StateWf s) (he : readInstr m base use s = .next t) :
    StateWf t :=
  complete_leaves he ((loadPlace_keeps h _).andThen fun v s' hs => huse v s' hs) (fun _ _ x => x) (fun _ _ x => x)

theorem writeInstr_keeps {m : Operand} {base : Nat} {v : Byte} {s t : State} (h : StateWf s)
    (he : writeInstr m base v s = .next t) : StateWf t :=
  complete_leaves he ((storePlace_keeps h _ _).andThen fun _ _ hs => hs) (fun _ _ x => x) (fun _ _ x => x)

theorem rmwInstr_keeps {m : Operand} {base : Nat} {f : Byte → Bool → RmwOut} {s t : State} (h : StateWf s)
    (he : rmwInstr m base f s = .next t) : StateWf t :=
  complete_leaves he ((loadPlace_keeps h _).andThen fun _ s1 hs =>
    (storePlace_keeps (StateWf.setP (s := s1) hs (hs.2.1.rmwCarry _)) _ _).andThen fun _ _ hs => hs.setZN _)
    (fun _ _ x => x) (fun _ _ x => x)

theorem impliedInstr_keeps {base : Nat} {f : State → State} {s t : State}
    (he : impliedInstr base f s = .next t) (hf : StateWf (f s)) : StateWf t :=
  complete_leaves he (show StateWf (f s) from hf) (fun _ _ x => x) (fun _ _ x => x)

theorem branchInstr_keeps {c : Bool} {off : Byte} {s t : State} (h : StateWf s)
    (he : branchInstr c off s = .next t) : StateWf t := by
  unfold branchInstr at he
  dsimp only at he
  split at he <;> exact complete_leaves he (show StateWf s from h) (fun _ _ x => x) (fun _ _ x => x)

theorem jmpIndirect_keeps {p : Addr} {s t : State} (h : StateWf s) (he : jmpIndirect p s = .next t) : StateWf t :=
  complete_leaves he ((busRead_keeps h _).andThen fun _ _ h1 => (busRead_keeps h1 _).andThen fun _ _ h2 => h2)
    (fun _ _ x => x) (fun _ _ x => x)

theorem loadRegister_keeps {put : Byte → State → State} (hput : ∀ v s, StateWf s → StateWf (put v s)) (v : Byte)
    {s : State} (h : StateWf s) : StateWf (loadRegister put v s) := (hput v s h).setZN v

theorem setA_keeps (v : Byte) (s : State) (h : StateWf s) : StateWf (s.setA v) := h
theorem setX_keeps (v : Byte) (s : State) (h : StateWf s) : StateWf (s.setX v) := h
theorem setY_keeps (v : Byte) (s : State) (h : StateWf s) : StateWf (s.setY v) := h

end Sys2Proof.Machine
end

