-- ==== Sys2Proof/Laws/Exec.lean ====
section
/-! SUPPORT. exec by mnemonic: each of the 151 meanings is its mnemonic's shape at its own operand and base count, so that a
claim about an instruction is one case per mnemonic. exec always answers a next state, and keeps the form of the state. -/

namespace Sys2Proof.Machine

/-- The shape of each mnemonic; an operand that R88 does not pair with the mnemonic is never asked for. -/
def meaningOf (m : Mnemonic) (o : Operand) (base : Nat) (s : State) : Result :=
  match m with
  | .lda => readInstr o base (loadRegister State.setA) s
  | .ldx => readInstr o base (loadRegister State.setX) s
  | .ldy => readInstr o base (loadRegister State.setY) s
  | .sta => writeInstr o base s.cpu.a s
  | .stx => writeInstr o base s.cpu.x s
  | .sty => writeInstr o base s.cpu.y s
  | .tax => impliedInstr base (fun s => loadRegister State.setX s.cpu.a s) s
  | .tay => impliedInstr base (fun s => loadRegister State.setY s.cpu.a s) s
  | .txa => impliedInstr base (fun s => loadRegister State.setA s.cpu.x s) s
  | .tya => impliedInstr base (fun s => loadRegister State.setA s.cpu.y s) s
  | .tsx => impliedInstr base (fun s => loadRegister State.setX s.cpu.s s) s
  | .txs => impliedInstr base (fun s => s.setS s.cpu.x) s
  | .pha => impliedInstr base (fun s => push s.cpu.a s) s
  | .php => impliedInstr base (fun s => push (phpByte s.cpu.p) s) s
  | .pla => impliedInstr base (fun s => loadRegister State.setA (pulled s) (afterPull s)) s
  | .plp => impliedInstr base (fun s => (afterPull s).setP (pulledStatus (pulled s))) s
  | .adc => readInstr o base adcStep s
  | .sbc => readInstr o base sbcStep s
  | .and => readInstr o base andStep s
  | .ora => readInstr o base oraStep s
  | .eor => readInstr o base eorStep s
  | .bit => readInstr o base bitStep s
  | .cmp => readInstr o base cmpStep s
  | .cpx => readInstr o base cpxStep s
  | .cpy => readInstr o base cpyStep s
  | .inc => rmwInstr o base incOf s
  | .dec => rmwInstr o base decOf s
  | .inx => impliedInstr base (fun s => loadRegister State.setX (s.cpu.x + 1) s) s
  | .iny => impliedInstr base (fun s => loadRegister State.setY (s.cpu.y + 1) s) s
  | .dex => impliedInstr base (fun s => loadRegister State.setX (s.cpu.x - 1) s) s
  | .dey => impliedInstr base (fun s => loadRegister State.setY (s.cpu.y - 1) s) s
  | .asl => rmwInstr o base aslOf s
  | .lsr => rmwInstr o base lsrOf s
  | .rol => rmwInstr o base rolOf s
  | .ror => rmwInstr o base rorOf s
  | .jmp =>
    match o with
    | .ind a => jmpIndirect a s
    | .jump a => impliedInstr base (State.setPc a) s
    | _ => .next s
  | .jsr =>
    match o with
    | .jump a => impliedInstr base (fun s => (pushAddr (s.cpu.pc - 1) s).setPc a) s
    | _ => .next s
  | .rts => impliedInstr base (fun s => (afterPullAddr s).setPc (pulledAddr s + 1)) s
  | .bcc => branchIf (!getFlag .c s.cpu.p) o s
  | .bcs => branchIf (getFlag .c s.cpu.p) o s
  | .beq => branchIf (getFlag .z s.cpu.p) o s
  | .bne => branchIf (!getFlag .z s.cpu.p) o s
  | .bmi => branchIf (getFlag .n s.cpu.p) o s
  | .bpl => branchIf (!getFlag .n s.cpu.p) o s
  | .bvc => branchIf (!getFlag .v s.cpu.p) o s
  | .bvs => branchIf (getFlag .v s.cpu.p) o s
  | .brk => impliedInstr base (fun s => enterInterrupt irqVector (s.setPc (s.cpu.pc + 1))) s
  | .rti => impliedInstr base returnFromInterrupt s
  | .nop => impliedInstr base (fun s => s) s
  | .clc => impliedInstr base (State.putF .c false) s
  | .sec => impliedInstr base (State.putF .c true) s
  | .cli => impliedInstr base (State.putF .i false) s
  | .sei => impliedInstr base (State.putF .i true) s
  | .cld => impliedInstr base (State.putF .d false) s
  | .sed => impliedInstr base (State.putF .d true) s
  | .clv => impliedInstr base (State.putF .v false) s
where
  /-- A branch reads its operand as a displacement. -/
  branchIf (c : Bool) (o : Operand) (s : State) : Result :=
    match o with
    | .rel off => branchInstr c off s
    | _ => .next s

/-- exec is the table above. -/
theorem exec_eq_meaning (i : Instr) (s : State) : exec i s = meaningOf i.mnemonic i.operand i.baseCycles s := by
  cases i <;> rfl

/-! ### Every shape answers a next state -/

theorem impliedInstr_eq (base : Nat) (f : State → State) (s : State) :
    impliedInstr base f s = .next ((f s).setStall ((f s).cpu.stall + (base - 1))) := by
  simp [impliedInstr]

theorem branchInstr_is_next (c : Bool) (off : Byte) (s : State) : ∃ t, branchInstr c off s = .next t := by
  unfold branchInstr
  dsimp only
  split <;> exact complete_is_next _ _

/-- Every instruction ends in a next state; a fault it raises is recorded there (R160, log 5). -/
theorem exec_is_next (i : Instr) (s : State) : ∃ t, exec i s = .next t := by
  have hb : ∀ c o, ∃ t, meaningOf.branchIf c o s = .next t := fun c o => by
    unfold meaningOf.branchIf
    split
    · exact branchInstr_is_next _ _ _
    · exact ⟨s, rfl⟩
  rw [exec_eq_meaning]
  generalize i.mnemonic = m
  cases m <;> unfold meaningOf <;> dsimp only <;>
    first
    | exact complete_is_next _ _
    | exact hb _ _
    | (split <;> first | exact complete_is_next _ _ | exact ⟨s, rfl⟩)

/-! ### Every instruction keeps the form of the state -/

theorem adcStep_keeps (v : Byte) (s : State) (h : StateWf s) : StateWf (adcStep v s) :=
  StateWf.setP (s := s.setA _) h (h.2.1.aluStatus _)
theorem sbcStep_keeps (v : Byte) (s : State) (h : StateWf s) : StateWf (sbcStep v s) :=
  StateWf.setP (s := s.setA _) h (h.2.1.aluStatus _)
theorem andStep_keeps (v : Byte) (s : State) (h : StateWf s) : StateWf (andStep v s) := loadRegister_keeps setA_keeps _ h
theorem oraStep_keeps (v : Byte) (s : State) (h : StateWf s) : StateWf (oraStep v s) := loadRegister_keeps setA_keeps _ h
theorem eorStep_keeps (v : Byte) (s : State) (h : StateWf s) : StateWf (eorStep v s) := loadRegister_keeps setA_keeps _ h
theorem bitStep_keeps (v : Byte) (s : State) (h : StateWf s) : StateWf (bitStep v s) := h.setP (h.2.1.bitStatus _ _)
theorem cmpStep_keeps (v : Byte) (s : State) (h : StateWf s) : StateWf (cmpStep v s) := h.setP (h.2.1.compareStatus _ _)
theorem cpxStep_keeps (v : Byte) (s : State) (h : StateWf s) : StateWf (cpxStep v s) := h.setP (h.2.1.compareStatus _ _)
theorem cpyStep_keeps (v : Byte) (s : State) (h : StateWf s) : StateWf (cpyStep v s) := h.setP (h.2.1.compareStatus _ _)

/-- exec keeps the form of the state, whether or not the instruction faults. -/
theorem exec_keeps {i : Instr} {s t : State} (h : StateWf s) (he : exec i s = .next t) : StateWf t := by
  have hb : ∀ {c o}, meaningOf.branchIf c o s = .next t → StateWf t := fun {c o} hb => by
    unfold meaningOf.branchIf at hb
    split at hb
    · exact branchInstr_keeps h hb
    · cases hb; exact h
  rw [exec_eq_meaning] at he
  generalize i.mnemonic = m at he
  cases m <;> unfold meaningOf at he <;> dsimp only at he
  case lda => exact readInstr_keeps (fun v _ hs => loadRegister_keeps setA_keeps v hs) h he
  case ldx => exact readInstr_keeps (fun v _ hs => loadRegister_keeps setX_keeps v hs) h he
  case ldy => exact readInstr_keeps (fun v _ hs => loadRegister_keeps setY_keeps v hs) h he
  case adc => exact readInstr_keeps adcStep_keeps h he
  case sbc => exact readInstr_keeps sbcStep_keeps h he
  case and => exact readInstr_keeps andStep_keeps h he
  case ora => exact readInstr_keeps oraStep_keeps h he
  case eor => exact readInstr_keeps eorStep_keeps h he
  case bit => exact readInstr_keeps bitStep_keeps h he
  case cmp => exact readInstr_keeps cmpStep_keeps h he
  case cpx => exact readInstr_keeps cpxStep_keeps h he
  case cpy => exact readInstr_keeps cpyStep_keeps h he
  case tax => exact impliedInstr_keeps he (loadRegister_keeps setX_keeps _ h)
  case tay => exact impliedInstr_keeps he (loadRegister_keeps setY_keeps _ h)
  case txa => exact impliedInstr_keeps he (loadRegister_keeps setA_keeps _ h)
  case tya => exact impliedInstr_keeps he (loadRegister_keeps setA_keeps _ h)
  case tsx => exact impliedInstr_keeps he (loadRegister_keeps setX_keeps _ h)
  case inx => exact impliedInstr_keeps he (loadRegister_keeps setX_keeps _ h)
  case dex => exact impliedInstr_keeps he (loadRegister_keeps setX_keeps _ h)
  case iny => exact impliedInstr_keeps he (loadRegister_keeps setY_keeps _ h)
  case dey => exact impliedInstr_keeps he (loadRegister_keeps setY_keeps _ h)
  case txs => exact impliedInstr_keeps he h
  case pha => exact impliedInstr_keeps he (h.push _)
  case php => exact impliedInstr_keeps he (h.push _)
  case pla => exact impliedInstr_keeps he (loadRegister_keeps setA_keeps _ h.afterPull)
  case plp => exact impliedInstr_keeps he (h.afterPull.setP (statusWf_pulledStatus _))
  case jmp =>
    split at he
    · exact jmpIndirect_keeps h he
    · exact impliedInstr_keeps he (h.setPc _)
    · cases he; exact h
  case jsr =>
    split at he
    · exact impliedInstr_keeps he ((h.pushAddr _).setPc _)
    · cases he; exact h
  case rts => exact impliedInstr_keeps he (h.afterPull.afterPull.setPc _)
  case brk => exact impliedInstr_keeps he ((h.setPc _).enterInterrupt _)
  case rti => exact impliedInstr_keeps he h.returnFromInterrupt
  case nop => exact impliedInstr_keeps he h
  all_goals
    first
    | exact writeInstr_keeps h he
    | exact rmwInstr_keeps h he
    | exact hb he
    | exact impliedInstr_keeps he (h.putF (by decide) _)

end Sys2Proof.Machine
end

