-- ==== Sys2Proof/Laws/Fixed.lean ====
section
/-! SUPPORT. What no instruction and no bus access moves: the cartridge, the host's side, the outputs, the PPU's position, the
tick count and the APU's step count. -/

namespace Sys2Proof.Machine

/-- The parts of the system that only a tick as a whole moves, or nothing does. -/
def Fixed (s t : State) : Prop :=
  t.cart = s.cart ∧ t.host = s.host ∧ t.out = s.out ∧ t.ppu.scanline = s.ppu.scanline ∧ t.ppu.dot = s.ppu.dot ∧
  t.cpu.cycle = s.cpu.cycle ∧ t.apu.apuCycle = s.apu.apuCycle

theorem Fixed.refl (s : State) : Fixed s s := ⟨rfl, rfl, rfl, rfl, rfl, rfl, rfl⟩

variable {s0 s t : State}

theorem ReadEffect.fixed (h : ReadEffect s t) (hs : Fixed s0 s) : Fixed s0 t := by
  obtain ⟨a, b, c, d, e, f, g, n, rfl⟩ := h; exact hs

theorem busRead_fixed (h : Fixed s0 s) (a : Addr) : (busRead a s).Leaves (Fixed s0) := by
  cases hr : busRead a s with
  | ok v t => exact (busRead_effect hr).fixed h
  | stop r t => rw [(busRead_stop hr).2.2]; exact h

theorem Fixed.setApu (h : Fixed s0 s) {a : Apu} (ha : a.apuCycle = s.apu.apuCycle) : Fixed s0 (s.setApu a) :=
  ⟨h.1, h.2.1, h.2.2.1, h.2.2.2.1, h.2.2.2.2.1, h.2.2.2.2.2.1, ha.trans h.2.2.2.2.2.2⟩

theorem Fixed.writeRam (h : Fixed s0 s) (a : Addr) (v : Byte) : Fixed s0 (writeRam a v s) := h

theorem Fixed.push (h : Fixed s0 s) (v : Byte) : Fixed s0 (push v s) := h

theorem Fixed.pushAddr (h : Fixed s0 s) (a : Addr) : Fixed s0 (pushAddr a s) := (h.push _).push _

theorem Fixed.setPc (h : Fixed s0 s) (v : Addr) : Fixed s0 (s.setPc v) := h

theorem Fixed.putF (h : Fixed s0 s) (f : Flag) (v : Bool) : Fixed s0 (s.putF f v) := h

theorem Fixed.enterInterrupt (h : Fixed s0 s) (v : Addr) : Fixed s0 (enterInterrupt v s) := by
  unfold Machine.enterInterrupt
  exact (((h.pushAddr _).push _).putF _ _).setPc _

theorem Fixed.vwrite (h : Fixed s0 s) (a : Nat) (v : Byte) : Fixed s0 (vwrite a v s) := by
  unfold Machine.vwrite patternWrite
  dsimp only
  split
  · split <;> exact h
  split <;> exact h

theorem Fixed.writePpu (h : Fixed s0 s) (r : Nat) (v : Byte) : Fixed s0 (writePpu r v s) := by
  unfold Machine.writePpu
  split
  · unfold writePpuCtrl; dsimp only; split <;> exact h
  · exact h
  · exact h
  · exact h
  · unfold writePpuScroll; split <;> exact h
  · unfold writePpuAddr; split <;> exact h
  · exact (show Fixed s0 (State.setPpu _ _) from h.vwrite _ _)
  · exact h

theorem oamDmaCopy_fixed (v : Byte) : ∀ (n : Nat) {s : State}, Fixed s0 s → (oamDmaCopy v n s).Leaves (Fixed s0)
  | 0, _, h => h
  | n + 1, _, h => (busRead_fixed h _).andThen fun _ _ ht => oamDmaCopy_fixed v n ht

theorem oamDma_fixed (h : Fixed s0 s) (v : Byte) : (oamDma v s).Leaves (Fixed s0) :=
  (oamDmaCopy_fixed v 256 h).andThen fun _ _ ht => ht

theorem ioWrite_fixed (h : Fixed s0 s) (a : Addr) (v : Byte) : (ioWrite a v s).Leaves (Fixed s0) := by
  unfold ioWrite
  split
  · exact oamDma_fixed h v
  · exact h.setApu rfl
  · unfold writeStrobe; dsimp only; split <;> exact h
  · exact h.setApu (frameCounterWrite_apuCycle v _)
  · exact h.setApu (channelWrite_apuCycle _ v _)

theorem busWrite_fixed (h : Fixed s0 s) (a : Addr) (v : Byte) : (busWrite a v s).Leaves (Fixed s0) := by
  unfold busWrite
  split
  · exact h
  split
  · exact h.writePpu _ v
  split
  · exact ioWrite_fixed h a v
  split
  · exact h
  · unfold cartWrite; split <;> exact h

theorem loadPlace_fixed (h : Fixed s0 s) (p : Place) : (loadPlace p s).Leaves (Fixed s0) := by
  cases p with
  | none => exact h
  | acc => exact h
  | value b => exact h
  | mem a => exact busRead_fixed h a

theorem storePlace_fixed (h : Fixed s0 s) (p : Place) (v : Byte) : (storePlace p v s).Leaves (Fixed s0) := by
  cases p with
  | none => exact h
  | acc => exact h
  | value b => exact h
  | mem a => exact busWrite_fixed h a v

theorem readInstr_fixed {m : Operand} {base : Nat} {use : Byte → State → State}
    (he : readInstr m base use s = .next t) (huse : ∀ v s, Fixed s0 s → Fixed s0 (use v s)) (h : Fixed s0 s) :
    Fixed s0 t :=
  complete_leaves he ((loadPlace_fixed h _).andThen fun v s' hs => huse v s' hs) (fun _ _ x => x) (fun _ _ x => x)

theorem writeInstr_fixed {m : Operand} {base : Nat} {v : Byte} (h : Fixed s0 s)
    (he : writeInstr m base v s = .next t) : Fixed s0 t :=
  complete_leaves he ((storePlace_fixed h _ _).andThen fun _ _ hs => hs) (fun _ _ x => x) (fun _ _ x => x)

theorem rmwInstr_fixed {m : Operand} {base : Nat} {f : Byte → Bool → RmwOut} (h : Fixed s0 s)
    (he : rmwInstr m base f s = .next t) : Fixed s0 t := by
  refine complete_leaves he ((loadPlace_fixed h _).andThen fun v s1 hs => ?_) (fun _ _ x => x) (fun _ _ x => x)
  have hs' : Fixed s0 (s1.setP (rmwCarry (f v (getFlag .c s1.cpu.p)) s1.cpu.p)) := hs
  exact Access.Leaves.andThen (storePlace_fixed hs' _ _) fun _ _ h2 => h2

theorem impliedInstr_fixed {base : Nat} {f : State → State} (he : impliedInstr base f s = .next t)
    (hf : Fixed s0 (f s)) : Fixed s0 t :=
  complete_leaves he (show Fixed s0 (f s) from hf) (fun _ _ x => x) (fun _ _ x => x)

theorem branchInstr_fixed {c : Bool} {off : Byte} (h : Fixed s0 s) (he : branchInstr c off s = .next t) :
    Fixed s0 t := by
  unfold branchInstr at he
  dsimp only at he
  split at he <;> exact complete_leaves he (show Fixed s0 s from h) (fun _ _ x => x) (fun _ _ x => x)

theorem jmpIndirect_fixed {p : Addr} (h : Fixed s0 s) (he : jmpIndirect p s = .next t) : Fixed s0 t :=
  complete_leaves he ((busRead_fixed h _).andThen fun _ _ h1 => (busRead_fixed h1 _).andThen fun _ _ h2 => h2)
    (fun _ _ x => x) (fun _ _ x => x)

/-- No instruction moves what Fixed lists. -/
theorem exec_fixed {i : Instr} (h : Fixed s0 s) (he : exec i s = .next t) : Fixed s0 t := by
  have hb : ∀ {c o}, meaningOf.branchIf c o s = .next t → Fixed s0 t := fun {c o} hb => by
    unfold meaningOf.branchIf at hb
    split at hb
    · exact branchInstr_fixed h hb
    · cases hb; exact h
  rw [exec_eq_meaning] at he
  generalize i.mnemonic = m at he
  cases m <;> unfold meaningOf at he <;> dsimp only at he
  case jmp =>
    split at he
    · exact jmpIndirect_fixed h he
    · exact impliedInstr_fixed he h
    · cases he; exact h
  case jsr =>
    split at he
    · exact impliedInstr_fixed he ((h.pushAddr _).setPc _)
    · cases he; exact h
  case pha => exact impliedInstr_fixed he (h.push _)
  case php => exact impliedInstr_fixed he (h.push _)
  case brk => exact impliedInstr_fixed he ((h.setPc _).enterInterrupt _)
  case rti => exact impliedInstr_fixed he h
  all_goals
    first
    | exact readInstr_fixed he (fun _ _ x => x) h
    | exact writeInstr_fixed h he
    | exact rmwInstr_fixed h he
    | exact hb he
    | exact impliedInstr_fixed he h

end Sys2Proof.Machine
end

