-- ==== Sys2Proof/Laws/Ops.lean ====
section
/-! SUPPORT. What the shared operations of the meanings do, once each: a bus write's reach, the stack, and the shapes of
read, store and read-modify-write instructions on operands that raise no fault. -/

namespace Sys2Proof.Machine

/-! ### Bus writes -/

/-- What a bus write does to the CPU's own state at most: stall cycles added by OAM DMA, an NMI requested by PPUCTRL. -/
def WriteCpu (s t : State) : Prop := t.cpu = { s.cpu with stall := t.cpu.stall, nmiPending := t.cpu.nmiPending }

/-- RAM, PRG RAM and the cartridge are the same. -/
def SameCells (s t : State) : Prop := t.ram = s.ram ∧ t.prgRam = s.prgRam ∧ t.cart = s.cart

theorem SameCells.storage {s t : State} (h : SameCells s t) : SameStorage s t := fun a => peek_congr h.1 h.2.1 h.2.2 a

theorem setApu_side (s : State) (a : Apu) : WriteCpu s (s.setApu a) ∧ SameCells s (s.setApu a) := ⟨rfl, rfl, rfl, rfl⟩

theorem vwrite_side (a : Nat) (v : Byte) (s : State) : (vwrite a v s).cpu = s.cpu ∧ SameCells s (vwrite a v s) := by
  unfold vwrite
  dsimp only
  split
  · unfold patternWrite; split <;> exact ⟨rfl, rfl, rfl, rfl⟩
  split <;> exact ⟨rfl, rfl, rfl, rfl⟩

/-- A PPU register write reaches no cell of the CPU space. -/
theorem writePpu_side (r : Nat) (v : Byte) (s : State) : WriteCpu s (writePpu r v s) ∧ SameCells s (writePpu r v s) := by
  unfold writePpu
  split
  · unfold writePpuCtrl; dsimp only; split <;> exact ⟨rfl, rfl, rfl, rfl⟩
  · exact ⟨rfl, rfl, rfl, rfl⟩
  · exact ⟨rfl, rfl, rfl, rfl⟩
  · exact ⟨rfl, rfl, rfl, rfl⟩
  · unfold writePpuScroll; split <;> exact ⟨rfl, rfl, rfl, rfl⟩
  · unfold writePpuAddr; split <;> exact ⟨rfl, rfl, rfl, rfl⟩
  · have h := vwrite_side (dataAddr s) v s
    unfold writePpuData
    dsimp only
    exact ⟨by unfold WriteCpu; simp [h.1], h.2⟩
  · exact ⟨rfl, rfl, rfl, rfl⟩

/-- The bytes of a DMA page, and what copying them changes: OAM and what reads change (R221). -/
theorem oamDmaCopy_side (v : Byte) : ∀ (n : Nat) {s t : State}, oamDmaCopy v n s = .ok () t →
    t.cpu = s.cpu ∧ SameCells s t
  | 0, s, t, h => by cases h; exact ⟨rfl, rfl, rfl, rfl⟩
  | n + 1, s, t, h => by
    unfold oamDmaCopy at h
    obtain ⟨b, s', h1, h2⟩ := Access.andThen_eq_ok h
    have e := busRead_effect h1
    obtain ⟨m1, m2, m3, -⟩ := e.memories
    obtain ⟨i1, i2, i3, i4⟩ := oamDmaCopy_side v n h2
    exact ⟨i1.trans e.cpu, i2.trans m1, i3.trans m3, i4.trans m2⟩

/-- A DMA from any page but 0x40 completes (R41, R221). -/
theorem oamDmaCopy_ok {v : Byte} (hv : v ≠ 0x40) : ∀ (n : Nat) (s : State), ∃ t, oamDmaCopy v n s = .ok () t
  | 0, s => ⟨s, rfl⟩
  | n + 1, s => by
    have hd : disabled (pair v (BitVec.ofNat 8 (255 - n))) = false := by
      rw [Bool.eq_false_iff]
      intro h
      have := (disabled_iff _).1 h
      rw [toNat_pair] at this
      have h1 := (BitVec.ofNat 8 (255 - n)).isLt
      exact hv (BitVec.eq_of_toNat_eq (show v.toNat = 0x40 by omega))
    obtain ⟨b, s', hr⟩ := busRead_enabled hd s
    unfold oamDmaCopy
    simp only [hr, Access.andThen_ok]
    exact oamDmaCopy_ok hv n _

theorem oamDma_side {v : Byte} {s t : State} (h : oamDma v s = .ok () t) : WriteCpu s t ∧ SameCells s t := by
  unfold oamDma at h
  generalize 256 = n at h
  cases hc : oamDmaCopy v n s with
  | ok u s' =>
    rw [hc, Access.andThen_ok] at h
    have h := (Access.ok.injEq _ _ _ _).mp h
    obtain ⟨c, m⟩ := oamDmaCopy_side v n hc
    rw [← h.2]
    exact ⟨by unfold WriteCpu; simp [c], m⟩
  | stop r s' => rw [hc] at h; cases h

/-- A bus write that completes: what it does to the CPU, and to the cells of the CPU space (R38, R50). -/
theorem busWrite_side {a : Addr} {v : Byte} {s t : State} (h : busWrite a v s = .ok () t) :
    WriteCpu s t ∧ (SameCells s t ∨
      (a.toNat < 0x2000 ∧ t = writeRam a v s) ∨
      (0x6000 ≤ a.toNat ∧ a.toNat < 0x8000 ∧ t = s.setPrgRam (Memory.write s.prgRam (prgRamIndex a) v))) := by
  unfold busWrite at h
  split at h
  · next hl => cases h; exact ⟨rfl, .inr (.inl ⟨hl, rfl⟩)⟩
  split at h
  · cases h; exact ⟨(writePpu_side _ v s).1, .inl (writePpu_side _ v s).2⟩
  split at h
  · unfold ioWrite at h
    split at h
    · obtain ⟨c, m⟩ := oamDma_side h
      exact ⟨c, .inl m⟩
    · cases h; exact ⟨rfl, .inl ⟨rfl, rfl, rfl⟩⟩
    · cases h
      unfold writeStrobe
      dsimp only
      split <;> exact ⟨rfl, .inl ⟨rfl, rfl, rfl⟩⟩
    · cases h; exact ⟨(setApu_side s _).1, .inl (setApu_side s _).2⟩
    · cases h; exact ⟨(setApu_side s _).1, .inl (setApu_side s _).2⟩
  split at h
  · cases h
  · cases h
    unfold cartWrite
    split
    · next hp => exact ⟨rfl, .inr (.inr ⟨hp.1, hp.2, rfl⟩)⟩
    · exact ⟨rfl, .inl ⟨rfl, rfl, rfl⟩⟩

/-- A write that is `Writable` completes. -/
theorem busWrite_writable {a : Addr} {v : Byte} (h : Writable a v) (s : State) : ∃ t, busWrite a v s = .ok () t := by
  have hd : ¬(0x4018 ≤ a.toNat ∧ a.toNat < 0x4020) := fun c => by have := h.1; simp [(disabled_iff a).2 c] at this
  unfold busWrite
  split
  · exact ⟨_, rfl⟩
  split
  · exact ⟨_, rfl⟩
  split
  · unfold ioWrite
    split
    · next e =>
      have hv : v ≠ 0x40 := fun hv => h.2 ⟨BitVec.eq_of_toNat_eq e, hv⟩
      obtain ⟨t, ht⟩ := oamDmaCopy_ok hv 256 s
      unfold oamDma
      rw [ht]
      exact ⟨_, rfl⟩
    all_goals exact ⟨_, rfl⟩
  rw [if_neg (by omega)]
  exact ⟨_, rfl⟩

/-! ### The stack -/

/-- The stack page is RAM bytes 0x100–0x1FF (R23, R38). -/
theorem ramIndex_stackAddr (sp : Byte) : ramIndex (stackAddr sp) = 0x100 + sp.toNat := by
  unfold ramIndex stackAddr
  rw [toNat_pair]
  have h1 : (1 : Byte).toNat = 1 := rfl
  have := sp.isLt
  rw [h1]; omega

theorem stackIndex_lt (sp : Byte) : 0x100 + sp.toNat < Config.ramSize := by
  have := sp.isLt
  show _ < 0x800
  omega

theorem push_eq (v : Byte) (s : State) :
    push v s = (s.setRam (Memory.write s.ram (0x100 + s.cpu.s.toNat) v)).setS (s.cpu.s - 1) := by
  unfold push writeRam; rw [ramIndex_stackAddr]

theorem pulled_eq (s : State) : pulled s = stackByte (s.cpu.s + 1) s := by
  unfold pulled ramByte stackByte; rw [ramIndex_stackAddr]

theorem pulledAddr_eq (s : State) : pulledAddr s = pair (stackByte (s.cpu.s + 2) s) (stackByte (s.cpu.s + 1) s) := by
  have h : s.cpu.s + 1 + 1 = s.cpu.s + 2 := by bv_omega
  unfold pulledAddr
  rw [pulled_eq, pulled_eq]
  show pair (stackByte (s.cpu.s + 1 + 1) s) _ = _
  rw [h]

/-! ### Shapes of instructions -/

/-- Loading a readable operand: one byte, and at most a read's effects. -/
theorem loadPlace_readable {m : Operand} {s : State} (h : Readable m s) :
    ∃ v t, loadPlace (resolve m s).place s = .ok v t ∧ ReadEffect s t := by
  unfold Readable at h
  cases hp : (resolve m s).place with
  | none => exact ⟨_, _, rfl, ReadEffect.refl s⟩
  | acc => exact ⟨_, _, rfl, ReadEffect.refl s⟩
  | value b => exact ⟨_, _, rfl, ReadEffect.refl s⟩
  | mem a =>
    obtain ⟨v, t, hr⟩ := busRead_enabled (h a hp) s
    exact ⟨v, t, hr, busRead_effect hr⟩

/-- A read instruction on a readable operand: the byte read once, `use` applied, the cycles counted. -/
theorem readInstr_next {m : Operand} {base : Nat} {use : Byte → State → State} {s : State} (h : Readable m s) :
    ∃ v t, loadPlace (resolve m s).place s = .ok v t ∧ ReadEffect s t ∧ readInstr m base use s =
      .next ((use v t).setStall ((use v t).cpu.stall + (base + pagePenalty m s - 1))) := by
  obtain ⟨v, t, hl, he⟩ := loadPlace_readable h
  exact ⟨v, t, hl, he, by unfold readInstr; rw [hl]; rfl⟩

/-- A store of `v` at an address it may be written to. -/
theorem writeInstr_next {m : Operand} {base : Nat} {v : Byte} {a : Addr} {s : State}
    (hp : (resolve m s).place = .mem a) (h : Writable a v) :
    ∃ t, busWrite a v s = .ok () t ∧ writeInstr m base v s = .next (t.setStall (t.cpu.stall + (base - 1))) := by
  obtain ⟨t, ht⟩ := busWrite_writable h s
  exact ⟨t, ht, by unfold writeInstr storePlace; rw [hp]; dsimp only; rw [ht]; rfl⟩

/-- A read-modify-write of an address: one read, the carry, one write of the result, Z and N. -/
theorem rmwInstr_next {m : Operand} {base : Nat} {f : Byte → Bool → RmwOut} {v : Byte} {a : Addr} {s s1 t : State}
    (hp : (resolve m s).place = .mem a) (hr : busRead a s = .ok v s1)
    (hw : busWrite a (f v (getFlag .c s1.cpu.p)).value (s1.setP (rmwCarry (f v (getFlag .c s1.cpu.p)) s1.cpu.p)) = .ok () t) :
    rmwInstr m base f s =
      .next ((t.setZN (f v (getFlag .c s1.cpu.p)).value).setStall (t.cpu.stall + (base - 1))) := by
  unfold rmwInstr
  rw [hp]
  unfold loadPlace storePlace
  simp only [hr, hw, Access.andThen_ok]
  rfl

end Sys2Proof.Machine
end

