-- ==== Sys2Proof/Laws/PerInstr.lean ====
section
/-! SUPPORT. Facts about every instruction as syntax, one lemma per constructor. -/

namespace Sys2Proof.Laws

/-- An instruction's opcode byte is none of the 105 invalid ones (R90), and its base cycle count lies between 2 and 7, so
that at least one cycle of `stall` follows every instruction's own tick (R88, R164). -/
def CycleRange.Statement (i : Instr) : Prop :=
  opcodePopulated i.opcode = true ∧ 2 ≤ i.baseCycles ∧ i.baseCycles ≤ 7

theorem CycleRange.brk : CycleRange.Statement (.brk) := ⟨rfl, Nat.le_of_ble_eq_true rfl, Nat.le_of_ble_eq_true rfl⟩
theorem CycleRange.oraIndX (b : Byte) : CycleRange.Statement (.oraIndX b) := ⟨rfl, Nat.le_of_ble_eq_true rfl, Nat.le_of_ble_eq_true rfl⟩
theorem CycleRange.oraZp (b : Byte) : CycleRange.Statement (.oraZp b) := ⟨rfl, Nat.le_of_ble_eq_true rfl, Nat.le_of_ble_eq_true rfl⟩
theorem CycleRange.aslZp (b : Byte) : CycleRange.Statement (.aslZp b) := ⟨rfl, Nat.le_of_ble_eq_true rfl, Nat.le_of_ble_eq_true rfl⟩
theorem CycleRange.php : CycleRange.Statement (.php) := ⟨rfl, Nat.le_of_ble_eq_true rfl, Nat.le_of_ble_eq_true rfl⟩
theorem CycleRange.oraImm (b : Byte) : CycleRange.Statement (.oraImm b) := ⟨rfl, Nat.le_of_ble_eq_true rfl, Nat.le_of_ble_eq_true rfl⟩
theorem CycleRange.aslAcc : CycleRange.Statement (.aslAcc) := ⟨rfl, Nat.le_of_ble_eq_true rfl, Nat.le_of_ble_eq_true rfl⟩
theorem CycleRange.oraAbs (a : Addr) : CycleRange.Statement (.oraAbs a) := ⟨rfl, Nat.le_of_ble_eq_true rfl, Nat.le_of_ble_eq_true rfl⟩
theorem CycleRange.aslAbs (a : Addr) : CycleRange.Statement (.aslAbs a) := ⟨rfl, Nat.le_of_ble_eq_true rfl, Nat.le_of_ble_eq_true rfl⟩
theorem CycleRange.bpl (off : Byte) : CycleRange.Statement (.bpl off) := ⟨rfl, Nat.le_of_ble_eq_true rfl, Nat.le_of_ble_eq_true rfl⟩
theorem CycleRange.oraIndY (b : Byte) : CycleRange.Statement (.oraIndY b) := ⟨rfl, Nat.le_of_ble_eq_true rfl, Nat.le_of_ble_eq_true rfl⟩
theorem CycleRange.oraZpX (b : Byte) : CycleRange.Statement (.oraZpX b) := ⟨rfl, Nat.le_of_ble_eq_true rfl, Nat.le_of_ble_eq_true rfl⟩
theorem CycleRange.aslZpX (b : Byte) : CycleRange.Statement (.aslZpX b) := ⟨rfl, Nat.le_of_ble_eq_true rfl, Nat.le_of_ble_eq_true rfl⟩
theorem CycleRange.clc : CycleRange.Statement (.clc) := ⟨rfl, Nat.le_of_ble_eq_true rfl, Nat.le_of_ble_eq_true rfl⟩
theorem CycleRange.oraAbsY (a : Addr) : CycleRange.Statement (.oraAbsY a) := ⟨rfl, Nat.le_of_ble_eq_true rfl, Nat.le_of_ble_eq_true rfl⟩
theorem CycleRange.oraAbsX (a : Addr) : CycleRange.Statement (.oraAbsX a) := ⟨rfl, Nat.le_of_ble_eq_true rfl, Nat.le_of_ble_eq_true rfl⟩
theorem CycleRange.aslAbsX (a : Addr) : CycleRange.Statement (.aslAbsX a) := ⟨rfl, Nat.le_of_ble_eq_true rfl, Nat.le_of_ble_eq_true rfl⟩
theorem CycleRange.jsr (a : Addr) : CycleRange.Statement (.jsr a) := ⟨rfl, Nat.le_of_ble_eq_true rfl, Nat.le_of_ble_eq_true rfl⟩
theorem CycleRange.andIndX (b : Byte) : CycleRange.Statement (.andIndX b) := ⟨rfl, Nat.le_of_ble_eq_true rfl, Nat.le_of_ble_eq_true rfl⟩
theorem CycleRange.bitZp (b : Byte) : CycleRange.Statement (.bitZp b) := ⟨rfl, Nat.le_of_ble_eq_true rfl, Nat.le_of_ble_eq_true rfl⟩
theorem CycleRange.andZp (b : Byte) : CycleRange.Statement (.andZp b) := ⟨rfl, Nat.le_of_ble_eq_true rfl, Nat.le_of_ble_eq_true rfl⟩
theorem CycleRange.rolZp (b : Byte) : CycleRange.Statement (.rolZp b) := ⟨rfl, Nat.le_of_ble_eq_true rfl, Nat.le_of_ble_eq_true rfl⟩
theorem CycleRange.plp : CycleRange.Statement (.plp) := ⟨rfl, Nat.le_of_ble_eq_true rfl, Nat.le_of_ble_eq_true rfl⟩
theorem CycleRange.andImm (b : Byte) : CycleRange.Statement (.andImm b) := ⟨rfl, Nat.le_of_ble_eq_true rfl, Nat.le_of_ble_eq_true rfl⟩
theorem CycleRange.rolAcc : CycleRange.Statement (.rolAcc) := ⟨rfl, Nat.le_of_ble_eq_true rfl, Nat.le_of_ble_eq_true rfl⟩
theorem CycleRange.bitAbs (a : Addr) : CycleRange.Statement (.bitAbs a) := ⟨rfl, Nat.le_of_ble_eq_true rfl, Nat.le_of_ble_eq_true rfl⟩
theorem CycleRange.andAbs (a : Addr) : CycleRange.Statement (.andAbs a) := ⟨rfl, Nat.le_of_ble_eq_true rfl, Nat.le_of_ble_eq_true rfl⟩
theorem CycleRange.rolAbs (a : Addr) : CycleRange.Statement (.rolAbs a) := ⟨rfl, Nat.le_of_ble_eq_true rfl, Nat.le_of_ble_eq_true rfl⟩
theorem CycleRange.bmi (off : Byte) : CycleRange.Statement (.bmi off) := ⟨rfl, Nat.le_of_ble_eq_true rfl, Nat.le_of_ble_eq_true rfl⟩
theorem CycleRange.andIndY (b : Byte) : CycleRange.Statement (.andIndY b) := ⟨rfl, Nat.le_of_ble_eq_true rfl, Nat.le_of_ble_eq_true rfl⟩
theorem CycleRange.andZpX (b : Byte) : CycleRange.Statement (.andZpX b) := ⟨rfl, Nat.le_of_ble_eq_true rfl, Nat.le_of_ble_eq_true rfl⟩
theorem CycleRange.rolZpX (b : Byte) : CycleRange.Statement (.rolZpX b) := ⟨rfl, Nat.le_of_ble_eq_true rfl, Nat.le_of_ble_eq_true rfl⟩
theorem CycleRange.sec : CycleRange.Statement (.sec) := ⟨rfl, Nat.le_of_ble_eq_true rfl, Nat.le_of_ble_eq_true rfl⟩
theorem CycleRange.andAbsY (a : Addr) : CycleRange.Statement (.andAbsY a) := ⟨rfl, Nat.le_of_ble_eq_true rfl, Nat.le_of_ble_eq_true rfl⟩
theorem CycleRange.andAbsX (a : Addr) : CycleRange.Statement (.andAbsX a) := ⟨rfl, Nat.le_of_ble_eq_true rfl, Nat.le_of_ble_eq_true rfl⟩
theorem CycleRange.rolAbsX (a : Addr) : CycleRange.Statement (.rolAbsX a) := ⟨rfl, Nat.le_of_ble_eq_true rfl, Nat.le_of_ble_eq_true rfl⟩
theorem CycleRange.rti : CycleRange.Statement (.rti) := ⟨rfl, Nat.le_of_ble_eq_true rfl, Nat.le_of_ble_eq_true rfl⟩
theorem CycleRange.eorIndX (b : Byte) : CycleRange.Statement (.eorIndX b) := ⟨rfl, Nat.le_of_ble_eq_true rfl, Nat.le_of_ble_eq_true rfl⟩
theorem CycleRange.eorZp (b : Byte) : CycleRange.Statement (.eorZp b) := ⟨rfl, Nat.le_of_ble_eq_true rfl, Nat.le_of_ble_eq_true rfl⟩
theorem CycleRange.lsrZp (b : Byte) : CycleRange.Statement (.lsrZp b) := ⟨rfl, Nat.le_of_ble_eq_true rfl, Nat.le_of_ble_eq_true rfl⟩
theorem CycleRange.pha : CycleRange.Statement (.pha) := ⟨rfl, Nat.le_of_ble_eq_true rfl, Nat.le_of_ble_eq_true rfl⟩
theorem CycleRange.eorImm (b : Byte) : CycleRange.Statement (.eorImm b) := ⟨rfl, Nat.le_of_ble_eq_true rfl, Nat.le_of_ble_eq_true rfl⟩
theorem CycleRange.lsrAcc : CycleRange.Statement (.lsrAcc) := ⟨rfl, Nat.le_of_ble_eq_true rfl, Nat.le_of_ble_eq_true rfl⟩
theorem CycleRange.jmpAbs (a : Addr) : CycleRange.Statement (.jmpAbs a) := ⟨rfl, Nat.le_of_ble_eq_true rfl, Nat.le_of_ble_eq_true rfl⟩
theorem CycleRange.eorAbs (a : Addr) : CycleRange.Statement (.eorAbs a) := ⟨rfl, Nat.le_of_ble_eq_true rfl, Nat.le_of_ble_eq_true rfl⟩
theorem CycleRange.lsrAbs (a : Addr) : CycleRange.Statement (.lsrAbs a) := ⟨rfl, Nat.le_of_ble_eq_true rfl, Nat.le_of_ble_eq_true rfl⟩
theorem CycleRange.bvc (off : Byte) : CycleRange.Statement (.bvc off) := ⟨rfl, Nat.le_of_ble_eq_true rfl, Nat.le_of_ble_eq_true rfl⟩
theorem CycleRange.eorIndY (b : Byte) : CycleRange.Statement (.eorIndY b) := ⟨rfl, Nat.le_of_ble_eq_true rfl, Nat.le_of_ble_eq_true rfl⟩
theorem CycleRange.eorZpX (b : Byte) : CycleRange.Statement (.eorZpX b) := ⟨rfl, Nat.le_of_ble_eq_true rfl, Nat.le_of_ble_eq_true rfl⟩
theorem CycleRange.lsrZpX (b : Byte) : CycleRange.Statement (.lsrZpX b) := ⟨rfl, Nat.le_of_ble_eq_true rfl, Nat.le_of_ble_eq_true rfl⟩
theorem CycleRange.cli : CycleRange.Statement (.cli) := ⟨rfl, Nat.le_of_ble_eq_true rfl, Nat.le_of_ble_eq_true rfl⟩
theorem CycleRange.eorAbsY (a : Addr) : CycleRange.Statement (.eorAbsY a) := ⟨rfl, Nat.le_of_ble_eq_true rfl, Nat.le_of_ble_eq_true rfl⟩
theorem CycleRange.eorAbsX (a : Addr) : CycleRange.Statement (.eorAbsX a) := ⟨rfl, Nat.le_of_ble_eq_true rfl, Nat.le_of_ble_eq_true rfl⟩
theorem CycleRange.lsrAbsX (a : Addr) : CycleRange.Statement (.lsrAbsX a) := ⟨rfl, Nat.le_of_ble_eq_true rfl, Nat.le_of_ble_eq_true rfl⟩
theorem CycleRange.rts : CycleRange.Statement (.rts) := ⟨rfl, Nat.le_of_ble_eq_true rfl, Nat.le_of_ble_eq_true rfl⟩
theorem CycleRange.adcIndX (b : Byte) : CycleRange.Statement (.adcIndX b) := ⟨rfl, Nat.le_of_ble_eq_true rfl, Nat.le_of_ble_eq_true rfl⟩
theorem CycleRange.adcZp (b : Byte) : CycleRange.Statement (.adcZp b) := ⟨rfl, Nat.le_of_ble_eq_true rfl, Nat.le_of_ble_eq_true rfl⟩
theorem CycleRange.rorZp (b : Byte) : CycleRange.Statement (.rorZp b) := ⟨rfl, Nat.le_of_ble_eq_true rfl, Nat.le_of_ble_eq_true rfl⟩
theorem CycleRange.pla : CycleRange.Statement (.pla) := ⟨rfl, Nat.le_of_ble_eq_true rfl, Nat.le_of_ble_eq_true rfl⟩
theorem CycleRange.adcImm (b : Byte) : CycleRange.Statement (.adcImm b) := ⟨rfl, Nat.le_of_ble_eq_true rfl, Nat.le_of_ble_eq_true rfl⟩
theorem CycleRange.rorAcc : CycleRange.Statement (.rorAcc) := ⟨rfl, Nat.le_of_ble_eq_true rfl, Nat.le_of_ble_eq_true rfl⟩
theorem CycleRange.jmpInd (a : Addr) : CycleRange.Statement (.jmpInd a) := ⟨rfl, Nat.le_of_ble_eq_true rfl, Nat.le_of_ble_eq_true rfl⟩
theorem CycleRange.adcAbs (a : Addr) : CycleRange.Statement (.adcAbs a) := ⟨rfl, Nat.le_of_ble_eq_true rfl, Nat.le_of_ble_eq_true rfl⟩
theorem CycleRange.rorAbs (a : Addr) : CycleRange.Statement (.rorAbs a) := ⟨rfl, Nat.le_of_ble_eq_true rfl, Nat.le_of_ble_eq_true rfl⟩
theorem CycleRange.bvs (off : Byte) : CycleRange.Statement (.bvs off) := ⟨rfl, Nat.le_of_ble_eq_true rfl, Nat.le_of_ble_eq_true rfl⟩
theorem CycleRange.adcIndY (b : Byte) : CycleRange.Statement (.adcIndY b) := ⟨rfl, Nat.le_of_ble_eq_true rfl, Nat.le_of_ble_eq_true rfl⟩
theorem CycleRange.adcZpX (b : Byte) : CycleRange.Statement (.adcZpX b) := ⟨rfl, Nat.le_of_ble_eq_true rfl, Nat.le_of_ble_eq_true rfl⟩
theorem CycleRange.rorZpX (b : Byte) : CycleRange.Statement (.rorZpX b) := ⟨rfl, Nat.le_of_ble_eq_true rfl, Nat.le_of_ble_eq_true rfl⟩
theorem CycleRange.sei : CycleRange.Statement (.sei) := ⟨rfl, Nat.le_of_ble_eq_true rfl, Nat.le_of_ble_eq_true rfl⟩
theorem CycleRange.adcAbsY (a : Addr) : CycleRange.Statement (.adcAbsY a) := ⟨rfl, Nat.le_of_ble_eq_true rfl, Nat.le_of_ble_eq_true rfl⟩
theorem CycleRange.adcAbsX (a : Addr) : CycleRange.Statement (.adcAbsX a) := ⟨rfl, Nat.le_of_ble_eq_true rfl, Nat.le_of_ble_eq_true rfl⟩
theorem CycleRange.rorAbsX (a : Addr) : CycleRange.Statement (.rorAbsX a) := ⟨rfl, Nat.le_of_ble_eq_true rfl, Nat.le_of_ble_eq_true rfl⟩
theorem CycleRange.staIndX (b : Byte) : CycleRange.Statement (.staIndX b) := ⟨rfl, Nat.le_of_ble_eq_true rfl, Nat.le_of_ble_eq_true rfl⟩
theorem CycleRange.styZp (b : Byte) : CycleRange.Statement (.styZp b) := ⟨rfl, Nat.le_of_ble_eq_true rfl, Nat.le_of_ble_eq_true rfl⟩
theorem CycleRange.staZp (b : Byte) : CycleRange.Statement (.staZp b) := ⟨rfl, Nat.le_of_ble_eq_true rfl, Nat.le_of_ble_eq_true rfl⟩
theorem CycleRange.stxZp (b : Byte) : CycleRange.Statement (.stxZp b) := ⟨rfl, Nat.le_of_ble_eq_true rfl, Nat.le_of_ble_eq_true rfl⟩
theorem CycleRange.dey : CycleRange.Statement (.dey) := ⟨rfl, Nat.le_of_ble_eq_true rfl, Nat.le_of_ble_eq_true rfl⟩
theorem CycleRange.txa : CycleRange.Statement (.txa) := ⟨rfl, Nat.le_of_ble_eq_true rfl, Nat.le_of_ble_eq_true rfl⟩
theorem CycleRange.styAbs (a : Addr) : CycleRange.Statement (.styAbs a) := ⟨rfl, Nat.le_of_ble_eq_true rfl, Nat.le_of_ble_eq_true rfl⟩
theorem CycleRange.staAbs (a : Addr) : CycleRange.Statement (.staAbs a) := ⟨rfl, Nat.le_of_ble_eq_true rfl, Nat.le_of_ble_eq_true rfl⟩
theorem CycleRange.stxAbs (a : Addr) : CycleRange.Statement (.stxAbs a) := ⟨rfl, Nat.le_of_ble_eq_true rfl, Nat.le_of_ble_eq_true rfl⟩
theorem CycleRange.bcc (off : Byte) : CycleRange.Statement (.bcc off) := ⟨rfl, Nat.le_of_ble_eq_true rfl, Nat.le_of_ble_eq_true rfl⟩
theorem CycleRange.staIndY (b : Byte) : CycleRange.Statement (.staIndY b) := ⟨rfl, Nat.le_of_ble_eq_true rfl, Nat.le_of_ble_eq_true rfl⟩
theorem CycleRange.styZpX (b : Byte) : CycleRange.Statement (.styZpX b) := ⟨rfl, Nat.le_of_ble_eq_true rfl, Nat.le_of_ble_eq_true rfl⟩
theorem CycleRange.staZpX (b : Byte) : CycleRange.Statement (.staZpX b) := ⟨rfl, Nat.le_of_ble_eq_true rfl, Nat.le_of_ble_eq_true rfl⟩
theorem CycleRange.stxZpY (b : Byte) : CycleRange.Statement (.stxZpY b) := ⟨rfl, Nat.le_of_ble_eq_true rfl, Nat.le_of_ble_eq_true rfl⟩
theorem CycleRange.tya : CycleRange.Statement (.tya) := ⟨rfl, Nat.le_of_ble_eq_true rfl, Nat.le_of_ble_eq_true rfl⟩
theorem CycleRange.staAbsY (a : Addr) : CycleRange.Statement (.staAbsY a) := ⟨rfl, Nat.le_of_ble_eq_true rfl, Nat.le_of_ble_eq_true rfl⟩
theorem CycleRange.txs : CycleRange.Statement (.txs) := ⟨rfl, Nat.le_of_ble_eq_true rfl, Nat.le_of_ble_eq_true rfl⟩
theorem CycleRange.staAbsX (a : Addr) : CycleRange.Statement (.staAbsX a) := ⟨rfl, Nat.le_of_ble_eq_true rfl, Nat.le_of_ble_eq_true rfl⟩
theorem CycleRange.ldyImm (b : Byte) : CycleRange.Statement (.ldyImm b) := ⟨rfl, Nat.le_of_ble_eq_true rfl, Nat.le_of_ble_eq_true rfl⟩
theorem CycleRange.ldaIndX (b : Byte) : CycleRange.Statement (.ldaIndX b) := ⟨rfl, Nat.le_of_ble_eq_true rfl, Nat.le_of_ble_eq_true rfl⟩
theorem CycleRange.ldxImm (b : Byte) : CycleRange.Statement (.ldxImm b) := ⟨rfl, Nat.le_of_ble_eq_true rfl, Nat.le_of_ble_eq_true rfl⟩
theorem CycleRange.ldyZp (b : Byte) : CycleRange.Statement (.ldyZp b) := ⟨rfl, Nat.le_of_ble_eq_true rfl, Nat.le_of_ble_eq_true rfl⟩
theorem CycleRange.ldaZp (b : Byte) : CycleRange.Statement (.ldaZp b) := ⟨rfl, Nat.le_of_ble_eq_true rfl, Nat.le_of_ble_eq_true rfl⟩
theorem CycleRange.ldxZp (b : Byte) : CycleRange.Statement (.ldxZp b) := ⟨rfl, Nat.le_of_ble_eq_true rfl, Nat.le_of_ble_eq_true rfl⟩
theorem CycleRange.tay : CycleRange.Statement (.tay) := ⟨rfl, Nat.le_of_ble_eq_true rfl, Nat.le_of_ble_eq_true rfl⟩
theorem CycleRange.ldaImm (b : Byte) : CycleRange.Statement (.ldaImm b) := ⟨rfl, Nat.le_of_ble_eq_true rfl, Nat.le_of_ble_eq_true rfl⟩
theorem CycleRange.tax : CycleRange.Statement (.tax) := ⟨rfl, Nat.le_of_ble_eq_true rfl, Nat.le_of_ble_eq_true rfl⟩
theorem CycleRange.ldyAbs (a : Addr) : CycleRange.Statement (.ldyAbs a) := ⟨rfl, Nat.le_of_ble_eq_true rfl, Nat.le_of_ble_eq_true rfl⟩
theorem CycleRange.ldaAbs (a : Addr) : CycleRange.Statement (.ldaAbs a) := ⟨rfl, Nat.le_of_ble_eq_true rfl, Nat.le_of_ble_eq_true rfl⟩
theorem CycleRange.ldxAbs (a : Addr) : CycleRange.Statement (.ldxAbs a) := ⟨rfl, Nat.le_of_ble_eq_true rfl, Nat.le_of_ble_eq_true rfl⟩
theorem CycleRange.bcs (off : Byte) : CycleRange.Statement (.bcs off) := ⟨rfl, Nat.le_of_ble_eq_true rfl, Nat.le_of_ble_eq_true rfl⟩
theorem CycleRange.ldaIndY (b : Byte) : CycleRange.Statement (.ldaIndY b) := ⟨rfl, Nat.le_of_ble_eq_true rfl, Nat.le_of_ble_eq_true rfl⟩
theorem CycleRange.ldyZpX (b : Byte) : CycleRange.Statement (.ldyZpX b) := ⟨rfl, Nat.le_of_ble_eq_true rfl, Nat.le_of_ble_eq_true rfl⟩
theorem CycleRange.ldaZpX (b : Byte) : CycleRange.Statement (.ldaZpX b) := ⟨rfl, Nat.le_of_ble_eq_true rfl, Nat.le_of_ble_eq_true rfl⟩
theorem CycleRange.ldxZpY (b : Byte) : CycleRange.Statement (.ldxZpY b) := ⟨rfl, Nat.le_of_ble_eq_true rfl, Nat.le_of_ble_eq_true rfl⟩
theorem CycleRange.clv : CycleRange.Statement (.clv) := ⟨rfl, Nat.le_of_ble_eq_true rfl, Nat.le_of_ble_eq_true rfl⟩
theorem CycleRange.ldaAbsY (a : Addr) : CycleRange.Statement (.ldaAbsY a) := ⟨rfl, Nat.le_of_ble_eq_true rfl, Nat.le_of_ble_eq_true rfl⟩
theorem CycleRange.tsx : CycleRange.Statement (.tsx) := ⟨rfl, Nat.le_of_ble_eq_true rfl, Nat.le_of_ble_eq_true rfl⟩
theorem CycleRange.ldyAbsX (a : Addr) : CycleRange.Statement (.ldyAbsX a) := ⟨rfl, Nat.le_of_ble_eq_true rfl, Nat.le_of_ble_eq_true rfl⟩
theorem CycleRange.ldaAbsX (a : Addr) : CycleRange.Statement (.ldaAbsX a) := ⟨rfl, Nat.le_of_ble_eq_true rfl, Nat.le_of_ble_eq_true rfl⟩
theorem CycleRange.ldxAbsY (a : Addr) : CycleRange.Statement (.ldxAbsY a) := ⟨rfl, Nat.le_of_ble_eq_true rfl, Nat.le_of_ble_eq_true rfl⟩
theorem CycleRange.cpyImm (b : Byte) : CycleRange.Statement (.cpyImm b) := ⟨rfl, Nat.le_of_ble_eq_true rfl, Nat.le_of_ble_eq_true rfl⟩
theorem CycleRange.cmpIndX (b : Byte) : CycleRange.Statement (.cmpIndX b) := ⟨rfl, Nat.le_of_ble_eq_true rfl, Nat.le_of_ble_eq_true rfl⟩
theorem CycleRange.cpyZp (b : Byte) : CycleRange.Statement (.cpyZp b) := ⟨rfl, Nat.le_of_ble_eq_true rfl, Nat.le_of_ble_eq_true rfl⟩
theorem CycleRange.cmpZp (b : Byte) : CycleRange.Statement (.cmpZp b) := ⟨rfl, Nat.le_of_ble_eq_true rfl, Nat.le_of_ble_eq_true rfl⟩
theorem CycleRange.decZp (b : Byte) : CycleRange.Statement (.decZp b) := ⟨rfl, Nat.le_of_ble_eq_true rfl, Nat.le_of_ble_eq_true rfl⟩
theorem CycleRange.iny : CycleRange.Statement (.iny) := ⟨rfl, Nat.le_of_ble_eq_true rfl, Nat.le_of_ble_eq_true rfl⟩
theorem CycleRange.cmpImm (b : Byte) : CycleRange.Statement (.cmpImm b) := ⟨rfl, Nat.le_of_ble_eq_true rfl, Nat.le_of_ble_eq_true rfl⟩
theorem CycleRange.dex : CycleRange.Statement (.dex) := ⟨rfl, Nat.le_of_ble_eq_true rfl, Nat.le_of_ble_eq_true rfl⟩
theorem CycleRange.cpyAbs (a : Addr) : CycleRange.Statement (.cpyAbs a) := ⟨rfl, Nat.le_of_ble_eq_true rfl, Nat.le_of_ble_eq_true rfl⟩
theorem CycleRange.cmpAbs (a : Addr) : CycleRange.Statement (.cmpAbs a) := ⟨rfl, Nat.le_of_ble_eq_true rfl, Nat.le_of_ble_eq_true rfl⟩
theorem CycleRange.decAbs (a : Addr) : CycleRange.Statement (.decAbs a) := ⟨rfl, Nat.le_of_ble_eq_true rfl, Nat.le_of_ble_eq_true rfl⟩
theorem CycleRange.bne (off : Byte) : CycleRange.Statement (.bne off) := ⟨rfl, Nat.le_of_ble_eq_true rfl, Nat.le_of_ble_eq_true rfl⟩
theorem CycleRange.cmpIndY (b : Byte) : CycleRange.Statement (.cmpIndY b) := ⟨rfl, Nat.le_of_ble_eq_true rfl, Nat.le_of_ble_eq_true rfl⟩
theorem CycleRange.cmpZpX (b : Byte) : CycleRange.Statement (.cmpZpX b) := ⟨rfl, Nat.le_of_ble_eq_true rfl, Nat.le_of_ble_eq_true rfl⟩
theorem CycleRange.decZpX (b : Byte) : CycleRange.Statement (.decZpX b) := ⟨rfl, Nat.le_of_ble_eq_true rfl, Nat.le_of_ble_eq_true rfl⟩
theorem CycleRange.cld : CycleRange.Statement (.cld) := ⟨rfl, Nat.le_of_ble_eq_true rfl, Nat.le_of_ble_eq_true rfl⟩
theorem CycleRange.cmpAbsY (a : Addr) : CycleRange.Statement (.cmpAbsY a) := ⟨rfl, Nat.le_of_ble_eq_true rfl, Nat.le_of_ble_eq_true rfl⟩
theorem CycleRange.cmpAbsX (a : Addr) : CycleRange.Statement (.cmpAbsX a) := ⟨rfl, Nat.le_of_ble_eq_true rfl, Nat.le_of_ble_eq_true rfl⟩
theorem CycleRange.decAbsX (a : Addr) : CycleRange.Statement (.decAbsX a) := ⟨rfl, Nat.le_of_ble_eq_true rfl, Nat.le_of_ble_eq_true rfl⟩
theorem CycleRange.cpxImm (b : Byte) : CycleRange.Statement (.cpxImm b) := ⟨rfl, Nat.le_of_ble_eq_true rfl, Nat.le_of_ble_eq_true rfl⟩
theorem CycleRange.sbcIndX (b : Byte) : CycleRange.Statement (.sbcIndX b) := ⟨rfl, Nat.le_of_ble_eq_true rfl, Nat.le_of_ble_eq_true rfl⟩
theorem CycleRange.cpxZp (b : Byte) : CycleRange.Statement (.cpxZp b) := ⟨rfl, Nat.le_of_ble_eq_true rfl, Nat.le_of_ble_eq_true rfl⟩
theorem CycleRange.sbcZp (b : Byte) : CycleRange.Statement (.sbcZp b) := ⟨rfl, Nat.le_of_ble_eq_true rfl, Nat.le_of_ble_eq_true rfl⟩
theorem CycleRange.incZp (b : Byte) : CycleRange.Statement (.incZp b) := ⟨rfl, Nat.le_of_ble_eq_true rfl, Nat.le_of_ble_eq_true rfl⟩
theorem CycleRange.inx : CycleRange.Statement (.inx) := ⟨rfl, Nat.le_of_ble_eq_true rfl, Nat.le_of_ble_eq_true rfl⟩
theorem CycleRange.sbcImm (b : Byte) : CycleRange.Statement (.sbcImm b) := ⟨rfl, Nat.le_of_ble_eq_true rfl, Nat.le_of_ble_eq_true rfl⟩
theorem CycleRange.nop : CycleRange.Statement (.nop) := ⟨rfl, Nat.le_of_ble_eq_true rfl, Nat.le_of_ble_eq_true rfl⟩
theorem CycleRange.cpxAbs (a : Addr) : CycleRange.Statement (.cpxAbs a) := ⟨rfl, Nat.le_of_ble_eq_true rfl, Nat.le_of_ble_eq_true rfl⟩
theorem CycleRange.sbcAbs (a : Addr) : CycleRange.Statement (.sbcAbs a) := ⟨rfl, Nat.le_of_ble_eq_true rfl, Nat.le_of_ble_eq_true rfl⟩
theorem CycleRange.incAbs (a : Addr) : CycleRange.Statement (.incAbs a) := ⟨rfl, Nat.le_of_ble_eq_true rfl, Nat.le_of_ble_eq_true rfl⟩
theorem CycleRange.beq (off : Byte) : CycleRange.Statement (.beq off) := ⟨rfl, Nat.le_of_ble_eq_true rfl, Nat.le_of_ble_eq_true rfl⟩
theorem CycleRange.sbcIndY (b : Byte) : CycleRange.Statement (.sbcIndY b) := ⟨rfl, Nat.le_of_ble_eq_true rfl, Nat.le_of_ble_eq_true rfl⟩
theorem CycleRange.sbcZpX (b : Byte) : CycleRange.Statement (.sbcZpX b) := ⟨rfl, Nat.le_of_ble_eq_true rfl, Nat.le_of_ble_eq_true rfl⟩
theorem CycleRange.incZpX (b : Byte) : CycleRange.Statement (.incZpX b) := ⟨rfl, Nat.le_of_ble_eq_true rfl, Nat.le_of_ble_eq_true rfl⟩
theorem CycleRange.sed : CycleRange.Statement (.sed) := ⟨rfl, Nat.le_of_ble_eq_true rfl, Nat.le_of_ble_eq_true rfl⟩
theorem CycleRange.sbcAbsY (a : Addr) : CycleRange.Statement (.sbcAbsY a) := ⟨rfl, Nat.le_of_ble_eq_true rfl, Nat.le_of_ble_eq_true rfl⟩
theorem CycleRange.sbcAbsX (a : Addr) : CycleRange.Statement (.sbcAbsX a) := ⟨rfl, Nat.le_of_ble_eq_true rfl, Nat.le_of_ble_eq_true rfl⟩
theorem CycleRange.incAbsX (a : Addr) : CycleRange.Statement (.incAbsX a) := ⟨rfl, Nat.le_of_ble_eq_true rfl, Nat.le_of_ble_eq_true rfl⟩

end Sys2Proof.Laws
end

