-- ==== Sys2Proof/Laws/Tick.lean ====
section
/-! SUPPORT. The parts of a tick: what the fetch and the CPU tick keep, what a PPU step and an APU step do to the form of the
state and to the positions, and that the APU step never faults in a state in form. -/

namespace Sys2Proof.Machine

variable {s0 s t : State}

/-! ### The CPU tick -/

theorem fetch_keeps (h : StateWf s) : (fetch s).Leaves StateWf := by
  unfold fetch
  refine (busRead_keeps h _).andThen fun op s1 h1 => ?_
  have h1' : ∀ v, StateWf (s1.setPc v) := fun _ => h1
  have h1'' : ∀ v w, StateWf ((s1.setPc v).setPc w) := fun _ _ => h1
  dsimp only
  split
  · exact h1
  · exact h1
  · exact Access.Leaves.andThen (busRead_keeps (h1'' _ _) _) fun _ _ h2 => h2
  · exact Access.Leaves.andThen (busRead_keeps (h1' _) _) fun _ _ h2 => h2
  · exact Access.Leaves.andThen (busRead_keeps (h1' _) _) fun _ _ h2 =>
      Access.Leaves.andThen (busRead_keeps h2 _) fun _ _ h3 => h3

theorem fetch_fixed (h : Fixed s0 s) : (fetch s).Leaves (Fixed s0) := by
  unfold fetch
  refine (busRead_fixed h _).andThen fun op s1 h1 => ?_
  have h1' : ∀ v, Fixed s0 (s1.setPc v) := fun _ => h1
  have h1'' : ∀ v w, Fixed s0 ((s1.setPc v).setPc w) := fun _ _ => h1
  dsimp only
  split
  · exact h1
  · exact h1
  · exact Access.Leaves.andThen (busRead_fixed (h1'' _ _) _) fun _ _ h2 => h2
  · exact Access.Leaves.andThen (busRead_fixed (h1' _) _) fun _ _ h2 => h2
  · exact Access.Leaves.andThen (busRead_fixed (h1' _) _) fun _ _ h2 =>
      Access.Leaves.andThen (busRead_fixed h2 _) fun _ _ h3 => h3

theorem executeOne_keeps (h : StateWf s) (he : executeOne s = .next t) : StateWf t := by
  have hf := fetch_keeps h
  unfold executeOne at he
  split at he <;> rename_i hr <;> rw [hr] at hf
  · exact exec_keeps hf he
  · cases he; exact hf

theorem executeOne_fixed (h : Fixed s0 s) (he : executeOne s = .next t) : Fixed s0 t := by
  have hf := fetch_fixed h
  unfold executeOne at he
  split at he <;> rename_i hr <;> rw [hr] at hf
  · exact exec_fixed hf he
  · cases he; exact hf

theorem takeInterrupt_keeps (h : StateWf s) (v : Addr) : StateWf (takeInterrupt v s) :=
  show StateWf (enterInterrupt v s) from h.enterInterrupt v

theorem takeInterrupt_fixed (h : Fixed s0 s) (v : Addr) : Fixed s0 (takeInterrupt v s) :=
  show Fixed s0 (enterInterrupt v s) from h.enterInterrupt v

theorem cpuTick_keeps (h : StateWf s) (he : cpuTick s = .next t) : StateWf t := by
  unfold cpuTick boundary at he
  split at he
  · split at he
    · cases he; exact takeInterrupt_keeps (s := s.setNmi false) h _
    · split at he
      · split at he
        · exact executeOne_keeps (s := s.setIrq false) h he
        · cases he; exact takeInterrupt_keeps (s := s.setIrq false) h _
      · exact executeOne_keeps h he
  · cases he; exact h

theorem cpuTick_fixed (h : Fixed s0 s) (he : cpuTick s = .next t) : Fixed s0 t := by
  unfold cpuTick boundary at he
  split at he
  · split at he
    · cases he; exact takeInterrupt_fixed (s := s.setNmi false) h _
    · split at he
      · split at he
        · exact executeOne_fixed (s := s.setIrq false) h he
        · cases he; exact takeInterrupt_fixed (s := s.setIrq false) h _
      · exact executeOne_fixed h he
  · cases he; exact h

/-- A CPU tick always ends in a next state. -/
theorem cpuTick_is_next (s : State) : ∃ t, cpuTick s = .next t := by
  have he : ∀ u, ∃ t, executeOne u = .next t := fun u => by
    unfold executeOne
    split
    · exact exec_is_next _ _
    · exact ⟨_, rfl⟩
  unfold cpuTick boundary
  split
  · split
    · exact ⟨_, rfl⟩
    · split
      · split
        · exact he _
        · exact ⟨_, rfl⟩
      · exact he _
  · exact ⟨_, rfl⟩

/-! ### The PPU step -/

/-- The position of the PPU in the frame, in dots. -/
def framePos (p : Ppu) : Nat := p.scanline * Config.dotsPerLine + p.dot

/-- What the events of a dot change at most: status bits, a pending NMI and the frame output. -/
def DotEffect (s t : State) : Prop := ∃ (vbl spr0 ovf nmi : Bool) (out : Output),
  t = { s with ppu := { s.ppu with vbl := vbl, spr0 := spr0, ovf := ovf }
               cpu := { s.cpu with nmiPending := nmi }, out := out }

theorem DotEffect.refl (s : State) : DotEffect s s := ⟨_, _, _, _, _, rfl⟩

theorem DotEffect.trans {u : State} (h : DotEffect s t) (g : DotEffect t u) : DotEffect s u := by
  obtain ⟨a, b, c, d, e, rfl⟩ := h
  obtain ⟨a', b', c', d', e', rfl⟩ := g
  exact ⟨a', b', c', d', e', rfl⟩

theorem vblankStart_effect (s : State) : DotEffect s (vblankStart s) := by
  unfold vblankStart
  dsimp only
  split <;> exact ⟨_, _, _, _, _, rfl⟩

theorem preRenderClear_effect (s : State) : DotEffect s (preRenderClear s) := ⟨_, _, _, _, _, rfl⟩

theorem sprite0Check_effect (y x : Nat) (s : State) : DotEffect s (sprite0Check y x s) := by
  unfold sprite0Check
  split
  · exact ⟨_, _, _, _, _, rfl⟩
  · exact DotEffect.refl s

theorem overflowCheck_effect (y : Nat) (s : State) : DotEffect s (overflowCheck y s) := by
  unfold overflowCheck
  split
  · exact ⟨_, _, _, _, _, rfl⟩
  · exact DotEffect.refl s

theorem dotEvents_effect (s : State) : DotEffect s (dotEvents s) := by
  unfold dotEvents
  dsimp only
  have step : ∀ {u v w : State} {c : Prop} [Decidable c], DotEffect s u → DotEffect u v → v = w →
      DotEffect s (if c then w else u) := fun h g e => by
    subst e; split
    · exact h.trans g
    · exact h
  exact step (step (step (step (DotEffect.refl s) (vblankStart_effect s) rfl) (preRenderClear_effect _) rfl)
    (sprite0Check_effect _ _ _) rfl) (overflowCheck_effect _ _) rfl

/-- The position after a dot, by the three cases of R187. -/
theorem advanceDot_cases (s : State) :
    (s.ppu.dot + 1 ≠ 341 ∧ (s.ppu.scanline = 262 → (advanceDot s).ppu.scanline = 0) ∧
      (s.ppu.scanline ≠ 262 → (advanceDot s).ppu.scanline = s.ppu.scanline) ∧
      (advanceDot s).ppu.dot = s.ppu.dot + 1) ∨
    (s.ppu.dot + 1 = 341 ∧ s.ppu.scanline + 1 ≠ 262 ∧ (advanceDot s).ppu.scanline = s.ppu.scanline + 1 ∧
      (advanceDot s).ppu.dot = 0) ∨
    (s.ppu.dot + 1 = 341 ∧ s.ppu.scanline + 1 = 262 ∧ (advanceDot s).ppu.scanline = 0 ∧ (advanceDot s).ppu.dot = 0) := by
  have hd : Config.dotsPerLine = 341 := rfl
  have hl : Config.linesPerFrame = 262 := rfl
  unfold advanceDot
  simp only [State.setPpu_ppu, hd, hl]
  by_cases h1 : s.ppu.dot + 1 = 341
  · simp only [h1, if_true]
    by_cases h2 : s.ppu.scanline + 1 = 262 <;> simp [h2]
  · simp only [h1, if_false]
    by_cases h2 : s.ppu.scanline = 262 <;> simp [h2] <;> omega

theorem advanceDot_ppuWf (h : PpuWf s.ppu) : PpuWf (advanceDot s).ppu := by
  have h1 : s.ppu.scanline < 262 := h.1
  have h2 : s.ppu.dot < 341 := h.2
  show _ < 262 ∧ _ < 341
  rcases advanceDot_cases s with ⟨ha, -, hb, hc⟩ | ⟨ha, hb, hc, hd⟩ | ⟨ha, hb, hc, hd⟩
  · have := hb (by omega); omega
  · omega
  · omega

/-- One dot on, around the frame (R187). -/
theorem advanceDot_pos (h : PpuWf s.ppu) : framePos (advanceDot s).ppu = (framePos s.ppu + 1) % dotsPerFrame := by
  have h1 : s.ppu.scanline < 262 := h.1
  have h2 : s.ppu.dot < 341 := h.2
  show _ * 341 + _ = (_ * 341 + _ + 1) % 89342
  rcases advanceDot_cases s with ⟨ha, -, hb, hc⟩ | ⟨ha, hb, hc, hd⟩ | ⟨ha, hb, hc, hd⟩
  · have := hb (by omega); omega
  · omega
  · omega

theorem ppuStep_keeps (h : StateWf s) : StateWf (ppuStep s) := by
  obtain ⟨a, b, c, d, e, hd⟩ := dotEvents_effect s
  unfold ppuStep
  rw [hd]
  exact ⟨⟨h.1.1, h.1.2.1, h.1.2.2.1, h.1.2.2.2.1, h.1.2.2.2.2.1, h.1.2.2.2.2.2.1, h.1.2.2.2.2.2.2⟩, h.2.1,
    advanceDot_ppuWf h.2.2.1, h.2.2.2⟩

theorem ppuStep_pos (h : PpuWf s.ppu) : framePos (ppuStep s).ppu = (framePos s.ppu + 1) % dotsPerFrame := by
  obtain ⟨a, b, c, d, e, hd⟩ := dotEvents_effect s
  unfold ppuStep
  rw [hd]
  exact advanceDot_pos h

/-- A PPU step moves no tick count, no APU state, no memory and no cartridge. -/
theorem ppuStep_rest (s : State) : (ppuStep s).cpu.cycle = s.cpu.cycle ∧ (ppuStep s).apu = s.apu ∧
    (ppuStep s).cart = s.cart ∧ (ppuStep s).cpu.fault = s.cpu.fault ∧ (ppuStep s).cpu.stall = s.cpu.stall := by
  obtain ⟨a, b, c, d, e, hd⟩ := dotEvents_effect s
  unfold ppuStep
  rw [hd]
  exact ⟨rfl, rfl, rfl, rfl, rfl⟩

/-! ### The APU step -/

theorem setFrameIrq_wf {a : Apu} (h : ApuWf a) : ApuWf (setFrameIrq a).1 := h

theorem fiveStep_wf {a : Apu} (hm : a.fsMode = true) (hc : a.fsCounter ≤ 37282) (h : ∀ n,
    n < sequenceLength a.fsMode → ApuWf { a with fsCounter := n }) : ApuWf (fiveStep a) := by
  have hl : sequenceLength a.fsMode = 37282 := by rw [hm]; rfl
  rw [hl] at h
  have next : a.fsCounter < 37282 → ApuWf a := fun e => h _ e
  unfold fiveStep
  split
  · exact quarterFrame_wf (next (by omega))
  split
  · exact halfFrame_wf (quarterFrame_wf (next (by omega)))
  split
  · exact quarterFrame_wf (next (by omega))
  split
  · exact halfFrame_wf (quarterFrame_wf (next (by omega)))
  split
  · exact h 0 (by omega)
  · exact next (by omega)

theorem fourStep_wf {a : Apu} (hm : a.fsMode = false) (hc : a.fsCounter ≤ 29830) (h : ∀ n,
    n < sequenceLength a.fsMode → ApuWf { a with fsCounter := n }) : ApuWf (fourStep a).1 := by
  have hl : sequenceLength a.fsMode = 29830 := by rw [hm]; rfl
  rw [hl] at h
  have next : a.fsCounter < 29830 → ApuWf a := fun e => h _ e
  unfold fourStep
  split
  · exact quarterFrame_wf (next (by omega))
  split
  · exact halfFrame_wf (quarterFrame_wf (next (by omega)))
  split
  · exact quarterFrame_wf (next (by omega))
  split
  · have hq := halfFrame_wf (quarterFrame_wf (next (by omega)))
    dsimp only
    split
    · exact hq
    · exact setFrameIrq_wf hq
  split
  · exact h 0 (by omega)
  · exact next (by omega)

theorem frameSeqStep_wf {a : Apu} (h : ApuWf a) : ApuWf (frameSeqStep a).1 := by
  have hc := h.1
  have next : ∀ n, n < sequenceLength a.fsMode → ApuWf { a with fsCounter := n } := fun _ hl => ⟨hl, h.2⟩
  unfold frameSeqStep
  dsimp only
  split
  · next hm =>
    have hl : sequenceLength a.fsMode = 37282 := by rw [hm]; rfl
    exact fiveStep_wf hm (show a.fsCounter + 1 ≤ 37282 by omega) next
  · next hm =>
    have hm : a.fsMode = false := by simpa using hm
    have hl : sequenceLength a.fsMode = 29830 := by rw [hm]; rfl
    exact fourStep_wf hm (show a.fsCounter + 1 ≤ 29830 by omega) next

theorem frameSeqStep_apuCycle (a : Apu) : (frameSeqStep a).1.apuCycle = a.apuCycle := by
  unfold frameSeqStep fiveStep fourStep setFrameIrq
  dsimp only
  split
  · split
    · rfl
    split
    · rfl
    split
    · rfl
    split
    · rfl
    split <;> rfl
  · split
    · rfl
    split
    · rfl
    split
    · rfl
    split
    · split <;> rfl
    split <;> rfl

/-- The shift register of the noise channel never reaches 0 (R214). -/
theorem lfsrNext_ne_zero {mode : Bool} {l : BitVec 15} (h : l ≠ 0) : lfsrNext mode l ≠ 0 := by
  intro hz
  unfold lfsrNext at hz
  dsimp only at hz
  have hand : l >>> 1 = 0 := by
    generalize (if (l.getLsbD 0).xor (if mode then l.getLsbD 6 else l.getLsbD 1) then (0x4000 : BitVec 15) else 0) = r at hz
    apply BitVec.eq_of_toNat_eq
    have h1 := congrArg BitVec.toNat hz
    rw [BitVec.toNat_or] at h1
    exact (Nat.or_eq_zero_iff.1 h1).1
  have hl : l = 1 := by
    have h1 := congrArg BitVec.toNat hand
    simp only [BitVec.toNat_ushiftRight, Nat.shiftRight_eq_div_pow] at h1
    have h2 : l.toNat ≠ 0 := fun e => h (BitVec.eq_of_toNat_eq (by simpa using e))
    apply BitVec.eq_of_toNat_eq
    show l.toNat = 1
    have h3 : (0 : BitVec 15).toNat = 0 := rfl
    omega
  subst hl
  revert hz
  cases mode <;> decide

theorem dmcTimer_wf {d : Dmc} (h : 1 ≤ d.bitsLeft ∧ d.bitsLeft ≤ 8) :
    (1 ≤ (dmcTimer d).bitsLeft ∧ (dmcTimer d).bitsLeft ≤ 8) ∧ (dmcTimer d).curAddr = d.curAddr := by
  unfold dmcTimer
  split
  · exact ⟨h, rfl⟩
  · dsimp only
    split
    · unfold dmcReloadShift
      split <;> exact ⟨by dsimp only; omega, rfl⟩
    · next hb => exact ⟨by dsimp only at hb ⊢; omega, rfl⟩

theorem pulseTimer_len (p : Pulse) : (pulseTimer p).len = p.len := by unfold pulseTimer; split <;> rfl
theorem triTimer_len (t : Triangle) : (triTimer t).len = t.len := by unfold triTimer; split <;> rfl
theorem noiseTimer_len (n : Noise) : (noiseTimer n).len = n.len := by unfold noiseTimer; split <;> rfl

theorem noiseTimer_lfsr {n : Noise} (h : n.lfsr ≠ 0) : (noiseTimer n).lfsr ≠ 0 := by
  unfold noiseTimer
  split
  · exact lfsrNext_ne_zero h
  · exact h

theorem channelTimers_wf {a : Apu} (h : ApuWf a) : ApuWf (channelTimers a) := by
  obtain ⟨h1, h2, h3, h4, h5, h6, h7, h8⟩ := h
  have hd := dmcTimer_wf h2
  unfold channelTimers
  dsimp only
  split
  · exact ⟨h1, hd.1, hd.2 ▸ h3, noiseTimer_lfsr h4, fun e => (pulseTimer_len _).trans (h5 e),
      fun e => (pulseTimer_len _).trans (h6 e), fun e => (triTimer_len _).trans (h7 e),
      fun e => (noiseTimer_len _).trans (h8 e)⟩
  · exact ⟨h1, hd.1, hd.2 ▸ h3, noiseTimer_lfsr h4, h5, h6, fun e => (triTimer_len _).trans (h7 e),
      fun e => (noiseTimer_len _).trans (h8 e)⟩

theorem channelTimers_apuCycle (a : Apu) : (channelTimers a).apuCycle = a.apuCycle := by
  unfold channelTimers; dsimp only; split <;> rfl

theorem dmcTake_wf {d : Dmc} (b : Byte) (h : 0x8000 ≤ d.curAddr.toNat) :
    (dmcTake b d).1.bitsLeft = d.bitsLeft ∧ 0x8000 ≤ (dmcTake b d).1.curAddr.toNat := by
  have hn : 0x8000 ≤ (if d.curAddr = 0xFFFF then (0x8000 : Addr) else d.curAddr + 1).toNat := by
    split
    · decide
    · next hne =>
      have h1 : d.curAddr.toNat ≠ 0xFFFF := fun e => hne (BitVec.eq_of_toNat_eq (by simpa using e))
      have h2 : (1 : Addr).toNat = 1 := rfl
      have := d.curAddr.isLt
      rw [BitVec.toNat_add, h2]
      omega
  unfold dmcTake
  dsimp only
  split
  · split
    · exact ⟨rfl, dmcStart_ge _⟩
    · split
      · exact ⟨rfl, hn⟩
      · exact ⟨rfl, hn⟩
  · exact ⟨rfl, hn⟩

/-- The memory reader of a channel in form reads PRG ROM and never faults (R217). -/
theorem dmcReader_ok (h : StateWf s) : ∃ t, dmcReader s = .ok () t ∧ StateWf t ∧ Fixed s t ∧
    t.ppu = s.ppu ∧ t.cpu.fault = s.cpu.fault := by
  unfold dmcReader
  split
  · obtain ⟨h1, h2, h3, h4⟩ := h.2.2.2
    rw [busRead_prg h3]
    simp only [Access.andThen_ok]
    refine ⟨_, rfl, ?_, ?_, ?_, ?_⟩
    · have hd := dmcTake_wf (s.cart.readPrg s.apu.dmc.curAddr) h3
      have h2' := h2
      rw [← hd.1] at h2'
      have ha : ApuWf { s.apu with dmc := (dmcTake (s.cart.readPrg s.apu.dmc.curAddr) s.apu.dmc).1 } :=
        ⟨h1, h2', hd.2, h4⟩
      have hs : StateWf (s.addStall Config.dmcStall) := h
      exact (hs.setApu ha).requestIrqIf _
    · rw [State.requestIrqIf_eq]; exact ⟨rfl, rfl, rfl, rfl, rfl, rfl, rfl⟩
    · rw [State.requestIrqIf_eq]; rfl
    · rw [State.requestIrqIf_eq]; rfl
  · exact ⟨s, rfl, h, Fixed.refl s, rfl, rfl⟩

/-- The APU step of a state in form: it never faults, keeps the form, counts itself, and moves neither the PPU nor the
tick count nor the cartridge (R202). -/
theorem apuStep_ok (h : StateWf s) : ∃ t, apuStep s = .ok () t ∧ StateWf t ∧ t.ppu = s.ppu ∧
    t.cpu.cycle = s.cpu.cycle ∧ t.cart = s.cart ∧ t.host = s.host ∧ t.cpu.fault = s.cpu.fault ∧
    t.apu.apuCycle = s.apu.apuCycle + 1 := by
  have h2 : StateWf ((frameSequencer s).setApu (channelTimers (frameSequencer s).apu)) := by
    have hf : StateWf (frameSequencer s) := StateWf.requestIrqIf (h.setApu (frameSeqStep_wf h.2.2.2)) _
    exact hf.setApu (channelTimers_wf hf.2.2.2)
  obtain ⟨u, hu, hw, hx, hp, hfl⟩ := dmcReader_ok h2
  unfold apuStep
  simp only [hu, Access.andThen_ok]
  refine ⟨_, rfl, ?_, ?_, ?_, ?_, ?_, ?_, ?_⟩
  · exact StateWf.setApu (s := u) hw hw.2.2.2
  · show u.ppu = s.ppu
    rw [hp]; simp only [frameSequencer, State.requestIrqIf_eq]; rfl
  · show u.cpu.cycle = s.cpu.cycle
    rw [hx.2.2.2.2.2.1]; simp only [frameSequencer, State.requestIrqIf_eq]; rfl
  · show u.cart = s.cart
    rw [hx.1]; simp only [frameSequencer, State.requestIrqIf_eq]; rfl
  · show u.host = s.host
    rw [hx.2.1]; simp only [frameSequencer, State.requestIrqIf_eq]; rfl
  · show u.cpu.fault = s.cpu.fault
    rw [hfl]; simp only [frameSequencer, State.requestIrqIf_eq]; rfl
  · show u.apu.apuCycle + 1 = s.apu.apuCycle + 1
    rw [hx.2.2.2.2.2.2]
    simp only [frameSequencer, State.requestIrqIf_eq, State.setApu_apu, State.setIrq_apu, channelTimers_apuCycle,
      frameSeqStep_apuCycle]

end Sys2Proof.Machine
end

