-- ==== Sys2Proof/Tests/Slice0.lean ====
section
/-! SUPPORT. The model's own tests: ill-formed input refused, decode words, the spec's vectors (95_test_vectors.md) one step
each, and for every statement with hypotheses a state that meets them. -/

open Sys2Proof Sys2Proof.Machine

namespace Sys2Proof.Tests

/-! ### Well-formedness (R67, R68, R90, R48) -/

theorem test_wf_empty : wellFormedBytes [] = false := by decide
theorem test_wf_invalid_opcode : wellFormedBytes [0x02] = false := by decide
theorem test_wf_missing_operand : wellFormedBytes [0xA9] = false := by decide
theorem test_wf_missing_high_byte : wellFormedBytes [0xAD, 0x00] = false := by decide
theorem test_wf_extra_byte : wellFormedBytes [0xEA, 0x00] = false := by decide
theorem test_wf_accepts : wellFormedBytes [0xAD, 0x34, 0x12] = true := by decide

/-- A header with the given magic, sizes and flag bytes, and no data. -/
def header (magic : List Byte) (prg chr flags6 flags7 : Byte) : List Byte :=
  magic ++ [prg, chr, flags6, flags7, 0, 0, 0, 0, 0, 0, 0, 0]

def nesMagic : List Byte := [0x4E, 0x45, 0x53, 0x1A]

/-- R48's conditions in its order; the last two images promise no data, so that they are long enough. -/
theorem test_image_short : malformed (nesMagic ++ [1]) = some .shortHeader := by decide
theorem test_image_truncated : malformed (header nesMagic 1 0 0 0) = some .truncatedData := by decide
theorem test_image_mapper : malformed (header nesMagic 0 0 0x10 0x20) = some (.unsupportedMapper 0x21) := by decide
theorem test_image_magic : malformed (header [0x4E, 0x45, 0x53, 0x1B] 0 0 0 0) = some .badMagic := by decide
theorem test_image_no_prg : malformed (header nesMagic 0 0 0 0) = some .noPrg := by decide
theorem test_image_refused : imageWellFormed (header nesMagic 0 0 0 0) = false := by decide

/-! ### Decoding: every opcode of R88, operand byte 0x12, operand address 0x3456 -/

/-- Each (width, word) decodes to the instruction at the same place. -/
def decodes (words : List (Nat × Nat)) (instrs : List Instr) : Bool :=
  decide (words.map (fun w => decodeTableWord w.1 w.2) = instrs.map some)

theorem test_decode_0x : decodes
    [(8, 0x00), (16, 0x1201), (16, 0x1205), (16, 0x1206), (8, 0x08), (16, 0x1209), (8, 0x0A), (24, 0x34560D),
     (24, 0x34560E)]
    [.brk, .oraIndX 0x12, .oraZp 0x12, .aslZp 0x12, .php, .oraImm 0x12, .aslAcc, .oraAbs 0x3456, .aslAbs 0x3456] = true := by decide
theorem test_decode_1x : decodes
    [(16, 0x1210), (16, 0x1211), (16, 0x1215), (16, 0x1216), (8, 0x18), (24, 0x345619), (24, 0x34561D), (24, 0x34561E)]
    [.bpl 0x12, .oraIndY 0x12, .oraZpX 0x12, .aslZpX 0x12, .clc, .oraAbsY 0x3456, .oraAbsX 0x3456, .aslAbsX 0x3456] = true := by decide
theorem test_decode_2x : decodes
    [(24, 0x345620), (16, 0x1221), (16, 0x1224), (16, 0x1225), (16, 0x1226), (8, 0x28), (16, 0x1229), (8, 0x2A),
     (24, 0x34562C), (24, 0x34562D), (24, 0x34562E)]
    [.jsr 0x3456, .andIndX 0x12, .bitZp 0x12, .andZp 0x12, .rolZp 0x12, .plp, .andImm 0x12, .rolAcc, .bitAbs 0x3456,
     .andAbs 0x3456, .rolAbs 0x3456] = true := by decide
theorem test_decode_3x : decodes
    [(16, 0x1230), (16, 0x1231), (16, 0x1235), (16, 0x1236), (8, 0x38), (24, 0x345639), (24, 0x34563D), (24, 0x34563E)]
    [.bmi 0x12, .andIndY 0x12, .andZpX 0x12, .rolZpX 0x12, .sec, .andAbsY 0x3456, .andAbsX 0x3456, .rolAbsX 0x3456] = true := by decide
theorem test_decode_4x : decodes
    [(8, 0x40), (16, 0x1241), (16, 0x1245), (16, 0x1246), (8, 0x48), (16, 0x1249), (8, 0x4A), (24, 0x34564C),
     (24, 0x34564D), (24, 0x34564E)]
    [.rti, .eorIndX 0x12, .eorZp 0x12, .lsrZp 0x12, .pha, .eorImm 0x12, .lsrAcc, .jmpAbs 0x3456, .eorAbs 0x3456,
     .lsrAbs 0x3456] = true := by decide
theorem test_decode_5x : decodes
    [(16, 0x1250), (16, 0x1251), (16, 0x1255), (16, 0x1256), (8, 0x58), (24, 0x345659), (24, 0x34565D), (24, 0x34565E)]
    [.bvc 0x12, .eorIndY 0x12, .eorZpX 0x12, .lsrZpX 0x12, .cli, .eorAbsY 0x3456, .eorAbsX 0x3456, .lsrAbsX 0x3456] = true := by decide
theorem test_decode_6x : decodes
    [(8, 0x60), (16, 0x1261), (16, 0x1265), (16, 0x1266), (8, 0x68), (16, 0x1269), (8, 0x6A), (24, 0x34566C),
     (24, 0x34566D), (24, 0x34566E)]
    [.rts, .adcIndX 0x12, .adcZp 0x12, .rorZp 0x12, .pla, .adcImm 0x12, .rorAcc, .jmpInd 0x3456, .adcAbs 0x3456,
     .rorAbs 0x3456] = true := by decide
theorem test_decode_7x : decodes
    [(16, 0x1270), (16, 0x1271), (16, 0x1275), (16, 0x1276), (8, 0x78), (24, 0x345679), (24, 0x34567D), (24, 0x34567E)]
    [.bvs 0x12, .adcIndY 0x12, .adcZpX 0x12, .rorZpX 0x12, .sei, .adcAbsY 0x3456, .adcAbsX 0x3456, .rorAbsX 0x3456] = true := by decide
theorem test_decode_8x : decodes
    [(16, 0x1281), (16, 0x1284), (16, 0x1285), (16, 0x1286), (8, 0x88), (8, 0x8A), (24, 0x34568C), (24, 0x34568D),
     (24, 0x34568E)]
    [.staIndX 0x12, .styZp 0x12, .staZp 0x12, .stxZp 0x12, .dey, .txa, .styAbs 0x3456, .staAbs 0x3456, .stxAbs 0x3456] = true := by decide
theorem test_decode_9x : decodes
    [(16, 0x1290), (16, 0x1291), (16, 0x1294), (16, 0x1295), (16, 0x1296), (8, 0x98), (24, 0x345699), (8, 0x9A),
     (24, 0x34569D)]
    [.bcc 0x12, .staIndY 0x12, .styZpX 0x12, .staZpX 0x12, .stxZpY 0x12, .tya, .staAbsY 0x3456, .txs, .staAbsX 0x3456] = true := by decide
theorem test_decode_Ax : decodes
    [(16, 0x12A0), (16, 0x12A1), (16, 0x12A2), (16, 0x12A4), (16, 0x12A5), (16, 0x12A6), (8, 0xA8), (16, 0x12A9),
     (8, 0xAA), (24, 0x3456AC), (24, 0x3456AD), (24, 0x3456AE)]
    [.ldyImm 0x12, .ldaIndX 0x12, .ldxImm 0x12, .ldyZp 0x12, .ldaZp 0x12, .ldxZp 0x12, .tay, .ldaImm 0x12, .tax,
     .ldyAbs 0x3456, .ldaAbs 0x3456, .ldxAbs 0x3456] = true := by decide
theorem test_decode_Bx : decodes
    [(16, 0x12B0), (16, 0x12B1), (16, 0x12B4), (16, 0x12B5), (16, 0x12B6), (8, 0xB8), (24, 0x3456B9), (8, 0xBA),
     (24, 0x3456BC), (24, 0x3456BD), (24, 0x3456BE)]
    [.bcs 0x12, .ldaIndY 0x12, .ldyZpX 0x12, .ldaZpX 0x12, .ldxZpY 0x12, .clv, .ldaAbsY 0x3456, .tsx,
     .ldyAbsX 0x3456, .ldaAbsX 0x3456, .ldxAbsY 0x3456] = true := by decide
theorem test_decode_Cx : decodes
    [(16, 0x12C0), (16, 0x12C1), (16, 0x12C4), (16, 0x12C5), (16, 0x12C6), (8, 0xC8), (16, 0x12C9), (8, 0xCA),
     (24, 0x3456CC), (24, 0x3456CD), (24, 0x3456CE)]
    [.cpyImm 0x12, .cmpIndX 0x12, .cpyZp 0x12, .cmpZp 0x12, .decZp 0x12, .iny, .cmpImm 0x12, .dex, .cpyAbs 0x3456,
     .cmpAbs 0x3456, .decAbs 0x3456] = true := by decide
theorem test_decode_Dx : decodes
    [(16, 0x12D0), (16, 0x12D1), (16, 0x12D5), (16, 0x12D6), (8, 0xD8), (24, 0x3456D9), (24, 0x3456DD), (24, 0x3456DE)]
    [.bne 0x12, .cmpIndY 0x12, .cmpZpX 0x12, .decZpX 0x12, .cld, .cmpAbsY 0x3456, .cmpAbsX 0x3456, .decAbsX 0x3456] = true := by decide
theorem test_decode_Ex : decodes
    [(16, 0x12E0), (16, 0x12E1), (16, 0x12E4), (16, 0x12E5), (16, 0x12E6), (8, 0xE8), (16, 0x12E9), (8, 0xEA),
     (24, 0x3456EC), (24, 0x3456ED), (24, 0x3456EE)]
    [.cpxImm 0x12, .sbcIndX 0x12, .cpxZp 0x12, .sbcZp 0x12, .incZp 0x12, .inx, .sbcImm 0x12, .nop, .cpxAbs 0x3456,
     .sbcAbs 0x3456, .incAbs 0x3456] = true := by decide
theorem test_decode_Fx : decodes
    [(16, 0x12F0), (16, 0x12F1), (16, 0x12F5), (16, 0x12F6), (8, 0xF8), (24, 0x3456F9), (24, 0x3456FD), (24, 0x3456FE)]
    [.beq 0x12, .sbcIndY 0x12, .sbcZpX 0x12, .incZpX 0x12, .sed, .sbcAbsY 0x3456, .sbcAbsX 0x3456, .incAbsX 0x3456] = true := by decide

theorem test_decode_invalid : decodes [(8, 0x02)] [.nop] = false := by decide

/-! ### One instruction each (95_test_vectors.md 2.1) -/

/-- A, X, Y, S, P. -/
structure Regs where
  a : Byte
  x : Byte
  y : Byte
  s : Byte
  p : Byte
  deriving DecidableEq, Repr

/-- One PRG bank: the NOP opcode at 0x8000, NMI vector 0xA000, reset vector 0x8000, IRQ vector 0x9000. -/
def benchCart : Cart :=
  { Cart.blank with prg := [(0x0000, 0xEA), (0x3FFB, 0xA0), (0x3FFD, 0x80), (0x3FFF, 0x90)] }

def poke (mem : List (Addr × Byte)) (s : State) : State :=
  mem.foldl (fun s c => writeRam c.1 c.2 s) s

/-- A state at an instruction boundary with the given registers and RAM bytes. -/
def bench (pc : Addr) (r : Regs) (mem : List (Addr × Byte)) : State :=
  poke mem { State.reset with
    cart := benchCart
    cpu := { State.reset.cpu with a := r.a, x := r.x, y := r.y, s := r.s, p := r.p, pc := pc, stall := 0 } }

def code (pc : Addr) (bytes : List Byte) : List (Addr × Byte) :=
  (List.range bytes.length).map fun k => (pc + BitVec.ofNat 16 k, bytes.getD k 0)

def regsOf (c : Cpu) : Regs := ⟨c.a, c.x, c.y, c.s, c.p⟩

/-- ExecuteOne leaves these registers, PC, cycle count and RAM bytes, and no fault. -/
def ran (pc : Addr) (bytes : List Byte) (r : Regs) (mem : List (Addr × Byte)) (r' : Regs) (pc' : Addr) (cycles : Nat)
    (mem' : List (Addr × Byte)) : Bool :=
  match executeOne (bench pc r (mem ++ code pc bytes)) with
  | .next t => decide (regsOf t.cpu = r') && decide (t.cpu.pc = pc') && decide (t.cpu.stall + 1 = cycles) &&
      mem'.all (fun c => decide (peek c.1 t = some c.2)) && t.cpu.fault.isNone
  | _ => false

/-- ExecuteOne records the fault, leaves the registers and PC at the given address, and counts no cycles. -/
def faulted (pc : Addr) (bytes : List Byte) (r : Regs) (f : Fault) (pc' : Addr) : Bool :=
  match executeOne (bench pc r (code pc bytes)) with
  | .next t => decide (regsOf t.cpu = r) && decide (t.cpu.pc = pc') && decide (t.cpu.stall = 0) &&
      decide (t.cpu.fault = some f)
  | _ => false

/-- V-AM1, V-AM3, V-AM4, V-AM5, V-AM6, V-AM7, V-AM8, V-AM11, V-AM14, V-LS1, V-LS2. -/
theorem test_lda : (ran 0x0200 [0xB5, 0xFF] ⟨0x00, 0x02, 0x00, 0xFD, 0x24⟩ [(0x0001, 0x11)] ⟨0x11, 0x02, 0x00, 0xFD, 0x24⟩ 0x0202 4 [] &&
      ran 0x0200 [0xA1, 0xFF] ⟨0x00, 0x00, 0x00, 0xFD, 0x24⟩ [(0x00FF, 0x34), (0x0000, 0x03), (0x0334, 0x5A)] ⟨0x5A, 0x00, 0x00, 0xFD, 0x24⟩ 0x0202 6 [] &&
      ran 0x0200 [0xA1, 0x10] ⟨0x00, 0xF5, 0x00, 0xFD, 0x24⟩ [(0x0005, 0x00), (0x0006, 0x04), (0x0400, 0x77)] ⟨0x77, 0xF5, 0x00, 0xFD, 0x24⟩ 0x0202 6 [] &&
      ran 0x0200 [0xB1, 0x10] ⟨0x00, 0x00, 0x01, 0xFD, 0x24⟩ [(0x0010, 0xFF), (0x0011, 0x02), (0x0300, 0x66)] ⟨0x66, 0x00, 0x01, 0xFD, 0x24⟩ 0x0202 6 [] &&
      ran 0x0200 [0xB1, 0xFF] ⟨0x00, 0x00, 0x00, 0xFD, 0x24⟩ [(0x00FF, 0x50), (0x0000, 0x04), (0x0450, 0x44)] ⟨0x44, 0x00, 0x00, 0xFD, 0x24⟩ 0x0202 5 [] &&
      ran 0x0200 [0xBD, 0x10, 0x03] ⟨0x00, 0x05, 0x00, 0xFD, 0x24⟩ [(0x0315, 0x12)] ⟨0x12, 0x05, 0x00, 0xFD, 0x24⟩ 0x0203 4 [] &&
      ran 0x0200 [0xBD, 0xFF, 0x03] ⟨0x00, 0x01, 0x00, 0xFD, 0x24⟩ [(0x0400, 0x13)] ⟨0x13, 0x01, 0x00, 0xFD, 0x24⟩ 0x0203 5 [] &&
      ran 0x0200 [0xB9, 0xFF, 0xFF] ⟨0x00, 0x00, 0x02, 0xFD, 0x24⟩ [(0x0001, 0x31)] ⟨0x31, 0x00, 0x02, 0xFD, 0x24⟩ 0x0203 5 [] &&
      ran 0x0200 [0xAD, 0x00, 0x08] ⟨0x00, 0x00, 0x00, 0xFD, 0x24⟩ [(0x0000, 0xC5)] ⟨0xC5, 0x00, 0x00, 0xFD, 0xA4⟩ 0x0203 4 [] &&
      ran 0x0200 [0xA9, 0x00] ⟨0x55, 0x00, 0x00, 0xFD, 0x24⟩ [] ⟨0x00, 0x00, 0x00, 0xFD, 0x26⟩ 0x0202 2 [] &&
      ran 0x0200 [0xA9, 0x80] ⟨0x00, 0x00, 0x00, 0xFD, 0x24⟩ [] ⟨0x80, 0x00, 0x00, 0xFD, 0xA4⟩ 0x0202 2 []) = true := by decide
/-- V-AM2, V-LS4, V-LS5. -/
theorem test_ldx : (ran 0x0200 [0xB6, 0xF0] ⟨0x00, 0x00, 0x20, 0xFD, 0x24⟩ [(0x0010, 0x22)] ⟨0x00, 0x22, 0x20, 0xFD, 0x24⟩ 0x0202 4 [] &&
      ran 0x0200 [0xA6, 0x10] ⟨0x00, 0x00, 0x00, 0xFD, 0x24⟩ [(0x0010, 0xFF)] ⟨0x00, 0xFF, 0x00, 0xFD, 0xA4⟩ 0x0202 3 [] &&
      ran 0x0200 [0xBE, 0xFF, 0x03] ⟨0x00, 0x00, 0x01, 0xFD, 0x24⟩ [(0x0400, 0x01)] ⟨0x00, 0x01, 0x01, 0xFD, 0x24⟩ 0x0203 5 []) = true := by decide
/-- V-AM9, V-AM10, V-LS8, V-LS9. -/
theorem test_sta : (ran 0x0200 [0x9D, 0x10, 0x03] ⟨0x99, 0x05, 0x00, 0xFD, 0x24⟩ [] ⟨0x99, 0x05, 0x00, 0xFD, 0x24⟩ 0x0203 5 [(0x0315, 0x99)] &&
      ran 0x0200 [0x9D, 0xFF, 0x03] ⟨0x99, 0x01, 0x00, 0xFD, 0x24⟩ [] ⟨0x99, 0x01, 0x00, 0xFD, 0x24⟩ 0x0203 5 [(0x0400, 0x99)] &&
      ran 0x0200 [0x85, 0x10] ⟨0x00, 0x00, 0x00, 0xFD, 0xA5⟩ [] ⟨0x00, 0x00, 0x00, 0xFD, 0xA5⟩ 0x0202 3 [(0x0010, 0x00)] &&
      ran 0x0200 [0x91, 0x10] ⟨0x42, 0x00, 0x01, 0xFD, 0x24⟩ [(0x0010, 0xFF), (0x0011, 0x02)] ⟨0x42, 0x00, 0x01, 0xFD, 0x24⟩ 0x0202 6 [(0x0300, 0x42)]) = true := by decide
/-- V-AM12, V-AM13, V-CT1. -/
theorem test_jmp : (ran 0x0400 [0x6C, 0xFF, 0x02] ⟨0x00, 0x00, 0x00, 0xFD, 0x24⟩ [(0x02FF, 0x34), (0x0200, 0x12), (0x0300, 0x56)] ⟨0x00, 0x00, 0x00, 0xFD, 0x24⟩ 0x1234 5 [] &&
      ran 0x0400 [0x6C, 0x00, 0x03] ⟨0x00, 0x00, 0x00, 0xFD, 0x24⟩ [(0x0300, 0x34), (0x0301, 0x12)] ⟨0x00, 0x00, 0x00, 0xFD, 0x24⟩ 0x1234 5 [] &&
      ran 0x0200 [0x4C, 0x34, 0x12] ⟨0x00, 0x00, 0x00, 0xFD, 0x24⟩ [] ⟨0x00, 0x00, 0x00, 0xFD, 0x24⟩ 0x1234 3 []) = true := by decide
/-- V-LS6, V-LS7. -/
theorem test_ldy : (ran 0x0200 [0xA0, 0x00] ⟨0x00, 0x00, 0x09, 0xFD, 0xA4⟩ [] ⟨0x00, 0x00, 0x00, 0xFD, 0x26⟩ 0x0202 2 [] &&
      ran 0x0200 [0xBC, 0x00, 0x03] ⟨0x00, 0x10, 0x00, 0xFD, 0x24⟩ [(0x0310, 0x80)] ⟨0x00, 0x10, 0x80, 0xFD, 0xA4⟩ 0x0203 4 []) = true := by decide
/-- V-LS10. -/
theorem test_stx : (ran 0x0200 [0x96, 0xFF] ⟨0x00, 0x77, 0x02, 0xFD, 0x24⟩ [] ⟨0x00, 0x77, 0x02, 0xFD, 0x24⟩ 0x0202 4 [(0x0001, 0x77)]) = true := by decide
/-- V-LS11. -/
theorem test_sty : (ran 0x0200 [0x8C, 0x00, 0x18] ⟨0x00, 0x00, 0x3C, 0xFD, 0x24⟩ [] ⟨0x00, 0x00, 0x3C, 0xFD, 0x24⟩ 0x0203 4 [(0x0000, 0x3C)]) = true := by decide
/-- V-TS1. -/
theorem test_tax : (ran 0x0200 [0xAA] ⟨0x00, 0x12, 0x00, 0xFD, 0x24⟩ [] ⟨0x00, 0x00, 0x00, 0xFD, 0x26⟩ 0x0201 2 []) = true := by decide
/-- V-TS2. -/
theorem test_tay : (ran 0x0200 [0xA8] ⟨0x90, 0x00, 0x00, 0xFD, 0x24⟩ [] ⟨0x90, 0x00, 0x90, 0xFD, 0xA4⟩ 0x0201 2 []) = true := by decide
/-- V-TS3. -/
theorem test_txa : (ran 0x0200 [0x8A] ⟨0x80, 0x7F, 0x00, 0xFD, 0xA4⟩ [] ⟨0x7F, 0x7F, 0x00, 0xFD, 0x24⟩ 0x0201 2 []) = true := by decide
/-- V-TS4. -/
theorem test_tya : (ran 0x0200 [0x98] ⟨0x01, 0x00, 0x00, 0xFD, 0x24⟩ [] ⟨0x00, 0x00, 0x00, 0xFD, 0x26⟩ 0x0201 2 []) = true := by decide
/-- V-TS5. -/
theorem test_tsx : (ran 0x0200 [0xBA] ⟨0x00, 0x00, 0x00, 0x80, 0x24⟩ [] ⟨0x00, 0x80, 0x00, 0x80, 0xA4⟩ 0x0201 2 []) = true := by decide
/-- V-TS6. -/
theorem test_txs : (ran 0x0200 [0x9A] ⟨0x00, 0x00, 0x00, 0xFD, 0x24⟩ [] ⟨0x00, 0x00, 0x00, 0x00, 0x24⟩ 0x0201 2 []) = true := by decide
/-- V-TS7, V-TS8. -/
theorem test_pha : (ran 0x0200 [0x48] ⟨0xC3, 0x00, 0x00, 0xFD, 0x24⟩ [] ⟨0xC3, 0x00, 0x00, 0xFC, 0x24⟩ 0x0201 3 [(0x01FD, 0xC3)] &&
      ran 0x0200 [0x48] ⟨0xC3, 0x00, 0x00, 0x00, 0x24⟩ [] ⟨0xC3, 0x00, 0x00, 0xFF, 0x24⟩ 0x0201 3 [(0x0100, 0xC3)]) = true := by decide
/-- V-TS9. -/
theorem test_php : (ran 0x0200 [0x08] ⟨0x00, 0x00, 0x00, 0xFD, 0xE7⟩ [] ⟨0x00, 0x00, 0x00, 0xFC, 0xE7⟩ 0x0201 3 [(0x01FD, 0xF7)]) = true := by decide
/-- V-TS10, V-TS11. -/
theorem test_pla : (ran 0x0200 [0x68] ⟨0x00, 0x00, 0x00, 0xFC, 0x24⟩ [(0x01FD, 0x00)] ⟨0x00, 0x00, 0x00, 0xFD, 0x26⟩ 0x0201 4 [] &&
      ran 0x0200 [0x68] ⟨0x00, 0x00, 0x00, 0xFF, 0x24⟩ [(0x0100, 0x80)] ⟨0x80, 0x00, 0x00, 0x00, 0xA4⟩ 0x0201 4 []) = true := by decide
/-- V-TS12, V-TS13. -/
theorem test_plp : (ran 0x0200 [0x28] ⟨0x00, 0x00, 0x00, 0xFC, 0x24⟩ [(0x01FD, 0xFF)] ⟨0x00, 0x00, 0x00, 0xFD, 0xEF⟩ 0x0201 4 [] &&
      ran 0x0200 [0x28] ⟨0x00, 0x00, 0x00, 0xFC, 0xEF⟩ [(0x01FD, 0x00)] ⟨0x00, 0x00, 0x00, 0xFD, 0x20⟩ 0x0201 4 []) = true := by decide
/-- V-AL1, V-AL2, V-AL23. -/
theorem test_adc : (ran 0x0200 [0x69, 0x01] ⟨0xFE, 0x00, 0x00, 0xFD, 0x25⟩ [] ⟨0x00, 0x00, 0x00, 0xFD, 0x27⟩ 0x0202 2 [] &&
      ran 0x0200 [0x69, 0x01] ⟨0x7F, 0x00, 0x00, 0xFD, 0x24⟩ [] ⟨0x80, 0x00, 0x00, 0xFD, 0xE4⟩ 0x0202 2 [] &&
      ran 0x0200 [0x7D, 0xFF, 0x03] ⟨0x01, 0x01, 0x00, 0xFD, 0x24⟩ [(0x0400, 0x02)] ⟨0x03, 0x01, 0x00, 0xFD, 0x24⟩ 0x0203 5 []) = true := by decide
/-- V-AL7, V-AL8. -/
theorem test_sbc : (ran 0x0200 [0xE9, 0x01] ⟨0xFE, 0x00, 0x00, 0xFD, 0x25⟩ [] ⟨0xFD, 0x00, 0x00, 0xFD, 0xA5⟩ 0x0202 2 [] &&
      ran 0x0200 [0xE9, 0x01] ⟨0x00, 0x00, 0x00, 0xFD, 0x25⟩ [] ⟨0xFF, 0x00, 0x00, 0xFD, 0xA4⟩ 0x0202 2 []) = true := by decide
/-- V-AL13. -/
theorem test_and : (ran 0x0200 [0x29, 0x0F] ⟨0xF0, 0x00, 0x00, 0xFD, 0x24⟩ [] ⟨0x00, 0x00, 0x00, 0xFD, 0x26⟩ 0x0202 2 []) = true := by decide
/-- V-AL14. -/
theorem test_ora : (ran 0x0200 [0x09, 0x80] ⟨0x01, 0x00, 0x00, 0xFD, 0x24⟩ [] ⟨0x81, 0x00, 0x00, 0xFD, 0xA4⟩ 0x0202 2 []) = true := by decide
/-- V-AL15. -/
theorem test_eor : (ran 0x0200 [0x49, 0xFF] ⟨0xFF, 0x00, 0x00, 0xFD, 0x24⟩ [] ⟨0x00, 0x00, 0x00, 0xFD, 0x26⟩ 0x0202 2 []) = true := by decide
/-- V-AL16, V-AL17. -/
theorem test_bit : (ran 0x0200 [0x24, 0x10] ⟨0x01, 0x00, 0x00, 0xFD, 0x24⟩ [(0x0010, 0xC0)] ⟨0x01, 0x00, 0x00, 0xFD, 0xE6⟩ 0x0202 3 [] &&
      ran 0x0200 [0x2C, 0x00, 0x03] ⟨0xFF, 0x00, 0x00, 0xFD, 0xE6⟩ [(0x0300, 0x01)] ⟨0xFF, 0x00, 0x00, 0xFD, 0x24⟩ 0x0203 4 []) = true := by decide
/-- V-AL18, V-AL19. -/
theorem test_cmp : (ran 0x0200 [0xC9, 0x40] ⟨0x40, 0x00, 0x00, 0xFD, 0x24⟩ [] ⟨0x40, 0x00, 0x00, 0xFD, 0x27⟩ 0x0202 2 [] &&
      ran 0x0200 [0xC9, 0x41] ⟨0x40, 0x00, 0x00, 0xFD, 0x24⟩ [] ⟨0x40, 0x00, 0x00, 0xFD, 0xA4⟩ 0x0202 2 []) = true := by decide
/-- V-AL21. -/
theorem test_cpx : (ran 0x0200 [0xE0, 0xFF] ⟨0x00, 0x00, 0x00, 0xFD, 0x24⟩ [] ⟨0x00, 0x00, 0x00, 0xFD, 0x24⟩ 0x0202 2 []) = true := by decide
/-- V-AL22. -/
theorem test_cpy : (ran 0x0200 [0xC0, 0x00] ⟨0x00, 0x00, 0x80, 0xFD, 0x24⟩ [] ⟨0x00, 0x00, 0x80, 0xFD, 0xA5⟩ 0x0202 2 []) = true := by decide
/-- V-ID1, V-ID2, V-ID3. -/
theorem test_inc : (ran 0x0200 [0xE6, 0x10] ⟨0x00, 0x00, 0x00, 0xFD, 0x24⟩ [(0x0010, 0xFF)] ⟨0x00, 0x00, 0x00, 0xFD, 0x26⟩ 0x0202 5 [(0x0010, 0x00)] &&
      ran 0x0200 [0xE6, 0x10] ⟨0x00, 0x00, 0x00, 0xFD, 0x24⟩ [(0x0010, 0x7F)] ⟨0x00, 0x00, 0x00, 0xFD, 0xA4⟩ 0x0202 5 [(0x0010, 0x80)] &&
      ran 0x0200 [0xFE, 0xFF, 0x03] ⟨0x00, 0x01, 0x00, 0xFD, 0x24⟩ [(0x0400, 0x01)] ⟨0x00, 0x01, 0x00, 0xFD, 0x24⟩ 0x0203 7 [(0x0400, 0x02)]) = true := by decide
/-- V-ID4, V-ID5. -/
theorem test_dec : (ran 0x0200 [0xC6, 0x10] ⟨0x00, 0x00, 0x00, 0xFD, 0x24⟩ [(0x0010, 0x00)] ⟨0x00, 0x00, 0x00, 0xFD, 0xA4⟩ 0x0202 5 [(0x0010, 0xFF)] &&
      ran 0x0200 [0xCE, 0x00, 0x03] ⟨0x00, 0x00, 0x00, 0xFD, 0x24⟩ [(0x0300, 0x01)] ⟨0x00, 0x00, 0x00, 0xFD, 0x26⟩ 0x0203 6 [(0x0300, 0x00)]) = true := by decide
/-- V-ID6. -/
theorem test_inx : (ran 0x0200 [0xE8] ⟨0x00, 0xFF, 0x00, 0xFD, 0x24⟩ [] ⟨0x00, 0x00, 0x00, 0xFD, 0x26⟩ 0x0201 2 []) = true := by decide
/-- V-ID7. -/
theorem test_iny : (ran 0x0200 [0xC8] ⟨0x00, 0x00, 0x7F, 0xFD, 0x24⟩ [] ⟨0x00, 0x00, 0x80, 0xFD, 0xA4⟩ 0x0201 2 []) = true := by decide
/-- V-ID8. -/
theorem test_dex : (ran 0x0200 [0xCA] ⟨0x00, 0x00, 0x00, 0xFD, 0x24⟩ [] ⟨0x00, 0xFF, 0x00, 0xFD, 0xA4⟩ 0x0201 2 []) = true := by decide
/-- V-ID9. -/
theorem test_dey : (ran 0x0200 [0x88] ⟨0x00, 0x00, 0x01, 0xFD, 0x24⟩ [] ⟨0x00, 0x00, 0x00, 0xFD, 0x26⟩ 0x0201 2 []) = true := by decide
/-- V-SR1, V-SR2, V-SR3. -/
theorem test_asl : (ran 0x0200 [0x0A] ⟨0x80, 0x00, 0x00, 0xFD, 0x24⟩ [] ⟨0x00, 0x00, 0x00, 0xFD, 0x27⟩ 0x0201 2 [] &&
      ran 0x0200 [0x0A] ⟨0x41, 0x00, 0x00, 0xFD, 0x25⟩ [] ⟨0x82, 0x00, 0x00, 0xFD, 0xA4⟩ 0x0201 2 [] &&
      ran 0x0200 [0x06, 0x10] ⟨0x00, 0x00, 0x00, 0xFD, 0x24⟩ [(0x0010, 0xC0)] ⟨0x00, 0x00, 0x00, 0xFD, 0xA5⟩ 0x0202 5 [(0x0010, 0x80)]) = true := by decide
/-- V-SR4, V-SR5. -/
theorem test_lsr : (ran 0x0200 [0x4A] ⟨0x01, 0x00, 0x00, 0xFD, 0x24⟩ [] ⟨0x00, 0x00, 0x00, 0xFD, 0x27⟩ 0x0201 2 [] &&
      ran 0x0200 [0x4E, 0x00, 0x03] ⟨0x00, 0x00, 0x00, 0xFD, 0xA4⟩ [(0x0300, 0xFF)] ⟨0x00, 0x00, 0x00, 0xFD, 0x25⟩ 0x0203 6 [(0x0300, 0x7F)]) = true := by decide
/-- V-SR6, V-SR7. -/
theorem test_rol : (ran 0x0200 [0x2A] ⟨0x80, 0x00, 0x00, 0xFD, 0x25⟩ [] ⟨0x01, 0x00, 0x00, 0xFD, 0x25⟩ 0x0201 2 [] &&
      ran 0x0200 [0x2A] ⟨0x40, 0x00, 0x00, 0xFD, 0x24⟩ [] ⟨0x80, 0x00, 0x00, 0xFD, 0xA4⟩ 0x0201 2 []) = true := by decide
/-- V-SR8, V-SR9, V-SR10. -/
theorem test_ror : (ran 0x0200 [0x6A] ⟨0x01, 0x00, 0x00, 0xFD, 0x25⟩ [] ⟨0x80, 0x00, 0x00, 0xFD, 0xA5⟩ 0x0201 2 [] &&
      ran 0x0200 [0x6A] ⟨0x02, 0x00, 0x00, 0xFD, 0x24⟩ [] ⟨0x01, 0x00, 0x00, 0xFD, 0x24⟩ 0x0201 2 [] &&
      ran 0x0200 [0x7E, 0xFF, 0x03] ⟨0x00, 0x01, 0x00, 0xFD, 0x25⟩ [(0x0400, 0x00)] ⟨0x00, 0x01, 0x00, 0xFD, 0xA4⟩ 0x0203 7 [(0x0400, 0x80)]) = true := by decide
/-- V-CT2, V-CT5. -/
theorem test_jsr : (ran 0x0200 [0x20, 0x00, 0x90] ⟨0x00, 0x00, 0x00, 0xFD, 0x24⟩ [] ⟨0x00, 0x00, 0x00, 0xFB, 0x24⟩ 0x9000 6 [(0x01FD, 0x02), (0x01FC, 0x02)] &&
      ran 0x0200 [0x20, 0x00, 0x90] ⟨0x00, 0x00, 0x00, 0x00, 0x24⟩ [] ⟨0x00, 0x00, 0x00, 0xFE, 0x24⟩ 0x9000 6 [(0x0100, 0x02), (0x01FF, 0x02)]) = true := by decide
/-- V-CT3, V-CT4. -/
theorem test_rts : (ran 0x0200 [0x60] ⟨0x00, 0x00, 0x00, 0xFB, 0x24⟩ [(0x01FC, 0x02), (0x01FD, 0x02)] ⟨0x00, 0x00, 0x00, 0xFD, 0x24⟩ 0x0203 6 [] &&
      ran 0x0200 [0x60] ⟨0x00, 0x00, 0x00, 0xFB, 0x24⟩ [(0x01FC, 0xFF), (0x01FD, 0x02)] ⟨0x00, 0x00, 0x00, 0xFD, 0x24⟩ 0x0300 6 []) = true := by decide
/-- V-CT6, V-CT7. -/
theorem test_bcc : (ran 0x0200 [0x90, 0x10] ⟨0x00, 0x00, 0x00, 0xFD, 0x25⟩ [] ⟨0x00, 0x00, 0x00, 0xFD, 0x25⟩ 0x0202 2 [] &&
      ran 0x0200 [0x90, 0x10] ⟨0x00, 0x00, 0x00, 0xFD, 0x24⟩ [] ⟨0x00, 0x00, 0x00, 0xFD, 0x24⟩ 0x0212 3 []) = true := by decide
/-- V-CT8. -/
theorem test_bcs : (ran 0x0280 [0xB0, 0x7F] ⟨0x00, 0x00, 0x00, 0xFD, 0x25⟩ [] ⟨0x00, 0x00, 0x00, 0xFD, 0x25⟩ 0x0301 4 []) = true := by decide
/-- V-CT9. -/
theorem test_beq : (ran 0x0200 [0xF0, 0xFE] ⟨0x00, 0x00, 0x00, 0xFD, 0x26⟩ [] ⟨0x00, 0x00, 0x00, 0xFD, 0x26⟩ 0x0200 3 []) = true := by decide
/-- V-CT10, V-CT15. -/
theorem test_bne : (ran 0x0250 [0xD0, 0x80] ⟨0x00, 0x00, 0x00, 0xFD, 0x24⟩ [] ⟨0x00, 0x00, 0x00, 0xFD, 0x24⟩ 0x01D2 4 [] &&
      ran 0x02F1 [0xD0, 0x0D] ⟨0x00, 0x00, 0x00, 0xFD, 0x24⟩ [] ⟨0x00, 0x00, 0x00, 0xFD, 0x24⟩ 0x0300 4 []) = true := by decide
/-- V-CT11. -/
theorem test_bmi : (ran 0x0200 [0x30, 0x02] ⟨0x00, 0x00, 0x00, 0xFD, 0xA4⟩ [] ⟨0x00, 0x00, 0x00, 0xFD, 0xA4⟩ 0x0204 3 []) = true := by decide
/-- V-CT12. -/
theorem test_bpl : (ran 0x0200 [0x10, 0x02] ⟨0x00, 0x00, 0x00, 0xFD, 0xA4⟩ [] ⟨0x00, 0x00, 0x00, 0xFD, 0xA4⟩ 0x0202 2 []) = true := by decide
/-- V-CT13. -/
theorem test_bvc : (ran 0x0200 [0x50, 0x02] ⟨0x00, 0x00, 0x00, 0xFD, 0x24⟩ [] ⟨0x00, 0x00, 0x00, 0xFD, 0x24⟩ 0x0204 3 []) = true := by decide
/-- V-CT14. -/
theorem test_bvs : (ran 0x0200 [0x70, 0x02] ⟨0x00, 0x00, 0x00, 0xFD, 0x64⟩ [] ⟨0x00, 0x00, 0x00, 0xFD, 0x64⟩ 0x0204 3 []) = true := by decide
/-- V-CT16, V-CT17. -/
theorem test_brk : (ran 0x0200 [0x00, 0xEA] ⟨0x00, 0x00, 0x00, 0xFD, 0x20⟩ [] ⟨0x00, 0x00, 0x00, 0xFA, 0x24⟩ 0x9000 7 [(0x01FD, 0x02), (0x01FC, 0x02), (0x01FB, 0x34)] &&
      ran 0x0200 [0x00, 0xEA] ⟨0x00, 0x00, 0x00, 0xFD, 0xE7⟩ [] ⟨0x00, 0x00, 0x00, 0xFA, 0xE7⟩ 0x9000 7 [(0x01FB, 0xF7)]) = true := by decide
/-- V-CT18, V-CT19. -/
theorem test_rti : (ran 0x0200 [0x40] ⟨0x00, 0x00, 0x00, 0xFA, 0x24⟩ [(0x01FB, 0xC3), (0x01FC, 0x02), (0x01FD, 0x80)] ⟨0x00, 0x00, 0x00, 0xFD, 0xE3⟩ 0x8002 6 [] &&
      ran 0x0200 [0x40] ⟨0x00, 0x00, 0x00, 0xFA, 0x24⟩ [(0x01FB, 0x34), (0x01FC, 0x0A), (0x01FD, 0x80)] ⟨0x00, 0x00, 0x00, 0xFD, 0x24⟩ 0x800A 6 []) = true := by decide
/-- V-SF1. -/
theorem test_nop : (ran 0x0200 [0xEA] ⟨0x12, 0x00, 0x00, 0xFD, 0xE7⟩ [] ⟨0x12, 0x00, 0x00, 0xFD, 0xE7⟩ 0x0201 2 []) = true := by decide
/-- V-SF2. -/
theorem test_clc : (ran 0x0200 [0x18] ⟨0x00, 0x00, 0x00, 0xFD, 0x25⟩ [] ⟨0x00, 0x00, 0x00, 0xFD, 0x24⟩ 0x0201 2 []) = true := by decide
/-- V-SF3. -/
theorem test_sec : (ran 0x0200 [0x38] ⟨0x00, 0x00, 0x00, 0xFD, 0x24⟩ [] ⟨0x00, 0x00, 0x00, 0xFD, 0x25⟩ 0x0201 2 []) = true := by decide
/-- V-SF4. -/
theorem test_cli : (ran 0x0200 [0x58] ⟨0x00, 0x00, 0x00, 0xFD, 0x24⟩ [] ⟨0x00, 0x00, 0x00, 0xFD, 0x20⟩ 0x0201 2 []) = true := by decide
/-- V-SF5. -/
theorem test_sei : (ran 0x0200 [0x78] ⟨0x00, 0x00, 0x00, 0xFD, 0x20⟩ [] ⟨0x00, 0x00, 0x00, 0xFD, 0x24⟩ 0x0201 2 []) = true := by decide
/-- V-SF6. -/
theorem test_cld : (ran 0x0200 [0xD8] ⟨0x00, 0x00, 0x00, 0xFD, 0x2C⟩ [] ⟨0x00, 0x00, 0x00, 0xFD, 0x24⟩ 0x0201 2 []) = true := by decide
/-- V-SF7. -/
theorem test_sed : (ran 0x0200 [0xF8] ⟨0x00, 0x00, 0x00, 0xFD, 0x24⟩ [] ⟨0x00, 0x00, 0x00, 0xFD, 0x2C⟩ 0x0201 2 []) = true := by decide
/-- V-SF8. -/
theorem test_clv : (ran 0x0200 [0xB8] ⟨0x00, 0x00, 0x00, 0xFD, 0x64⟩ [] ⟨0x00, 0x00, 0x00, 0xFD, 0x24⟩ 0x0201 2 []) = true := by decide
/-- V-FT1, V-FT2, V-FT3, V-FT4, V-FT5, V-FT6. -/
theorem test_faults : (faulted 0x0200 [0x02] ⟨0x00, 0x00, 0x00, 0xFD, 0x24⟩ (.invalidOpcode 0x02 0x0200) 0x0201 &&
      faulted 0x0200 [0xFF] ⟨0x00, 0x00, 0x00, 0xFD, 0x24⟩ (.invalidOpcode 0xFF 0x0200) 0x0201 &&
      faulted 0x0200 [0xAD, 0x18, 0x40] ⟨0x11, 0x00, 0x00, 0xFD, 0x24⟩ (.invalidAddress 0x4018) 0x0203 &&
      faulted 0x0200 [0x8D, 0x1F, 0x40] ⟨0x11, 0x00, 0x00, 0xFD, 0x24⟩ (.invalidAddress 0x401F) 0x0203 &&
      faulted 0x0200 [0x6C, 0x17, 0x40] ⟨0x00, 0x00, 0x00, 0xFD, 0x24⟩ (.invalidAddress 0x4018) 0x0203 &&
      faulted 0x0200 [0xBD, 0x10, 0x40] ⟨0x00, 0x08, 0x00, 0xFD, 0x24⟩ (.invalidAddress 0x4018) 0x0203) = true := by decide


/-! ### Interrupts (95_test_vectors.md 2.11), one step from a boundary with requests -/

/-- The bench with the given PC and P and the two latches. -/
def pending (pc : Addr) (p : Byte) (nmi irq : Bool) : State :=
  ((bench pc ⟨0, 0, 0, 0xFD, p⟩ []).setNmi nmi).setIrq irq

/-- The step enters: this PC, S = 0xFA, the three stacked bytes, P, stall. -/
def entered (s : State) (pc : Addr) (stack : List Byte) (p : Byte) (nmi irq : Bool) : Bool :=
  match step s with
  | .next t => decide (t.cpu.pc = pc) && decide (t.cpu.s = 0xFA) && decide (t.cpu.p = p) && decide (t.cpu.stall = 6) &&
      decide ([peek 0x01FD t, peek 0x01FC t, peek 0x01FB t] = stack.map some) &&
      decide (t.cpu.nmiPending = nmi) && decide (t.cpu.irqPending = irq)
  | _ => false

/-- V-IN1, V-IN2, the first tick of V-IN4. -/
theorem test_nmi_entry : entered (pending 0x8000 0x20 true false) 0xA000 [0x80, 0x00, 0x34] 0x24 false false = true := by
  decide
theorem test_irq_entry : entered (pending 0x8000 0x20 false true) 0x9000 [0x80, 0x00, 0x34] 0x24 false false = true := by
  decide
theorem test_nmi_first : entered (pending 0x8000 0x20 true true) 0xA000 [0x80, 0x00, 0x34] 0x24 false true = true := by
  decide

/-- V-IN3: the IRQ is discarded and the NOP runs. -/
theorem test_irq_discarded : (match step (pending 0x8000 0x24 false true) with
    | .next t => decide (t.cpu.pc = 0x8001) && decide (t.cpu.stall = 1) && !t.cpu.irqPending
    | _ => false) = true := by decide

/-! ### PPU registers and video (95_test_vectors.md 2.12, 2.13) -/

/-- The writes in order, and the state they leave. -/
def writes : List (Addr × Byte) → State → State
  | [], s => s
  | (a, v) :: rest, s =>
    match busWrite a v s with
    | .ok _ t => writes rest t
    | .stop _ t => t

/-- The byte a bus read returns, and the state it leaves. -/
def reads (a : Addr) (s : State) : Option Byte × State :=
  match busRead a s with
  | .ok v t => (some v, t)
  | .stop _ t => (none, t)

def blank : State := bench 0x8000 ⟨0, 0, 0, 0xFD, 0x24⟩ []
def vertical : State := blank.setCart { benchCart with mirroring := .vertical }
def withPpu (f : Ppu → Ppu) (s : State) : State := s.setPpu (f s.ppu)

/-- V-PP2, V-PP3, V-PP10, V-PP12. -/
theorem test_ppuaddr : (let s := writes [(0x2006, 0x21), (0x2006, 0x08)] blank
    let t := writes [(0x2006, 0x3F)] (reads 0x2002 s).2
    (s.ppu.vaddr, s.ppu.w, t.ppu.vaddr, t.ppu.w)) = (0x2108, false, 0x3F08, true) := by decide
theorem test_ppudata_increment : (let s := writes [(0x2006, 0x20), (0x2006, 0x00), (0x2007, 0x11), (0x2007, 0x22),
      (0x2000, 0x04), (0x2007, 0x33)] vertical
    (vread s 0x2000, vread s 0x2001, vread s 0x2002, s.ppu.vaddr)) = (0x11, 0x22, 0x33, 0x2022) := by decide
theorem test_scroll_toggle : (let s := writes [(0x2005, 0x10), (0x2006, 0x56)] (withPpu (fun p => { p with vaddr := 0x1234 }) blank)
    (s.ppu.scrollX, s.ppu.scrollY, s.ppu.vaddr, s.ppu.w)) = (0x10, 0x00, 0x1256, false) := by decide
theorem test_ppu_mirror : (writes [(0x3456, 0x3F)] blank).ppu.vaddr = 0x3F00 := by decide

/-- V-PP4, V-PP5. -/
theorem test_ppudata_buffer : (let s := withPpu (fun p => { p with vaddr := 0x2000 }) (vwrite 0x2001 0x66 (vwrite 0x2000 0x55 blank))
    let r1 := reads 0x2007 s
    let r2 := reads 0x2007 r1.2
    let r3 := reads 0x2007 r2.2
    (r1.1, r2.1, r3.1, r3.2.ppu.vaddr)) = (some 0x00, some 0x55, some 0x66, 0x2003) := by decide
theorem test_palette_read : (let s := withPpu (fun p => { p with vaddr := 0x3F01, rbuf := 0x77 }) (vwrite 0x3F01 0x2A blank)
    let r := reads 0x2007 s
    (r.1, r.2.ppu.rbuf, r.2.ppu.vaddr)) = (some 0x2A, 0x77, 0x3F02) := by decide

/-- V-PP6, V-PP7, V-PP8. -/
theorem test_palette_mirror : (let s := vwrite 0x3F10 0x0F blank
    (vread s 0x3F00, vread s 0x3F1C, vread s 0x3FE0)) = (0x0F, 0x0F, 0x0F) := by decide
theorem test_mirroring : (let s := vwrite 0x2400 0xCD (vwrite 0x2800 0xAB vertical)
    let t := vwrite 0x2400 0xCD (vwrite 0x2800 0xAB blank)
    ([0x2000, 0x2400, 0x2800, 0x2C00].map (vread s), [0x2000, 0x2400, 0x2800, 0x2C00].map (vread t))) =
    ([0xAB, 0xCD, 0xAB, 0xCD], [0xCD, 0xCD, 0xAB, 0xAB]) := by decide
theorem test_video_fold : (let s := vwrite 0x2123 0x99 blank
    (vread s 0x3123, vread s 0x6123)) = (0x99, 0x99) := by decide

/-- V-PP9, V-PP11. -/
theorem test_oamdata : (let s := writes [(0x2004, 0xA1), (0x2004, 0xA2), (0x2004, 0xA3)] (withPpu (fun p => { p with oamAddr := 0xFE }) blank)
    (s.ppu.oam, s.ppu.oamAddr, (reads 0x2004 s).2.ppu.oamAddr)) = ([(0, 0xA3), (0xFE, 0xA1), (0xFF, 0xA2)], 0x01, 0x01) := by decide
theorem test_nmi_edge : (let s := writes [(0x2000, 0x80)] (withPpu (fun p => { p with vbl := true }) blank)
    let t := writes [(0x2000, 0x80)] (s.setNmi false)
    let u := writes [(0x2000, 0x00), (0x2000, 0x80)] (withPpu (fun p => { p with vbl := false }) t)
    (s.cpu.nmiPending, t.cpu.nmiPending, u.cpu.nmiPending)) = (true, false, false) := by decide

/-- 2.13's setup: tile 1 is one pixel of value 3, tile 2 is solid 1, tile 3 of table 0x1000 is solid 1. -/
def scene (mask ctrl scrollX : Byte) (nametable : List (Nat × Byte)) (sprites : Memory) : State :=
  { vertical with
    chrRam := (List.range 8).foldl (fun m k => Memory.write (Memory.write m (0x20 + k) 0xFF) (0x1030 + k) 0xFF)
      [(0x10, 0x80), (0x18, 0x80)]
    vram := nametable.foldl (fun m c => Memory.write m (c.1 - 0x2000) c.2) []
    ppu := { vertical.ppu with
      mask := mask, ctrl := ctrl, scrollX := scrollX, oam := sprites
      palette := (List.range 31).foldl (fun m k => Memory.write m (k + 1) (BitVec.ofNat 8 (0x21 + k))) [(0, 0x0F)] } }

/-- V-G1, V-G2, V-G3, V-G5, V-G9, V-G10. -/
theorem test_background : (let s := scene 0x0A 0 0 [(0x2000, 1), (0x2002, 1), (0x23C0, 0xE4)] []
    (pixelOut s 0 0, pixelOut s 1 0, bgPixel s 16 0, pixelOut s 16 0)) = (0x23, 0x0F, 7, 0x27) := by decide
theorem test_background_masked : (pixelOut (scene 0x08 0 0 [(0x2000, 1)] []) 0 0, pixelOut (scene 0x0B 0 0 [(0x2000, 1)] []) 0 0,
    pixelOut (scene 0x00 0 0 [(0x2000, 1)] []) 0 0) = (0x0F, 0x20, 0x0F) := by decide
theorem test_background_scrolled : (bgPixel (scene 0x0A 0 8 [(0x2001, 1)] []) 0 0, bgPixel (scene 0x0A 1 0 [(0x2400, 1)] []) 0 0,
    bgPixel (scene 0x0A 0 255 [(0x2400, 1)] []) 1 0, bgPixel (scene 0x0A 0 0 [(0x2063, 1), (0x23C0, 0xC0)] []) 24 24) =
    (3, 3, 3, 15) := by decide

/-- V-G6, V-G7, V-G8, V-G12. -/
def spriteAt (y tile attr x : Byte) : Memory := Memory.ofBytes 4 [y, tile, attr, x]
theorem test_sprite : (let s := scene 0x1E 0 0 [] (spriteAt 9 1 0 20)
    (sprPixelOf s 0 20 10, sprPixelOf s 0 20 9, sprPixelOf s 0 21 10)) = (some ⟨19, false⟩, none, none) := by decide
theorem test_sprite_flips : (let h := scene 0x1E 0 0 [] (spriteAt 9 1 0x40 20)
    let v := scene 0x1E 0 0 [] (spriteAt 9 1 0x80 20)
    (sprPixelOf h 0 20 10, sprPixelOf h 0 27 10, sprPixelOf v 0 20 17, sprPixelOf v 0 20 10)) =
    (none, some ⟨19, false⟩, some ⟨19, false⟩, none) := by decide
theorem test_sprite_behind : (let oam := Memory.ofBytes 8 [7, 1, 0x23, 16, 7, 1, 0x00, 16]
    (pixelOut (scene 0x1E 0 0 [(0x2022, 1)] oam) 16 8, pixelOut (scene 0x1E 0 0 [] oam) 16 8)) = (0x23, 0x3F) := by decide
theorem test_sprite_tall : (let s := scene 0x1E 0x20 0 [] (spriteAt 0 3 0 40)
    (sprPixelOf s 0 40 1, (sprPixelOf s 0 40 9).map (·.idx))) = (none, some 17) := by decide

/-- V-G11's pixel and V-G13's counts, at their positions. -/
theorem test_sprite0_hit : (let s := { scene 0x1E 0 0 [(0x2001, 2)] (spriteAt 0 2 0 8) with }
    (sprite0Hits s 8 1, sprite0Hits s 7 1, sprite0Hits s 8 0)) = (true, false, false) := by decide
def spritesOnLine0 (n : Nat) : Memory :=
  Memory.ofBytes 256 ((List.range 64).flatMap fun k => if k < n then [0x00, 0x01, 0x01, 0x01] else [0xFF, 0xFF, 0xFF, 0xFF])
theorem test_overflow : (let at257 := fun n => withPpu (fun p => { p with dot := 257 }) (scene 0x18 0 0 [] (spritesOnLine0 n))
    ((ppuStep (at257 9)).ppu.ovf, (ppuStep (at257 8)).ppu.ovf)) = (true, false) := by decide +kernel

/-! ### APU (95_test_vectors.md 2.14) -/

/-- V-APU1, V-APU5, V-APU6. -/
theorem test_length_load : (let s := writes [(0x4015, 0x01), (0x4003, 0x08)] blank
    let t := writes [(0x4015, 0x00)] s
    (s.apu.p1.len, (writes [(0x4003, 0x08)] s).apu.p1.len, t.apu.p1.len, (writes [(0x4003, 0x08)] t).apu.p1.len)) =
    (254, 254, 0, 0) := by decide
theorem test_frame_irq_cleared : (writes [(0x4017, 0x40)] (blank.setApu { blank.apu with frameIrq := true })).apu.frameIrq = false := by
  decide
def sweeping (neg : Bool) (shift : BitVec 3) (period : BitVec 11) : Pulse :=
  { Pulse.powerOn with sweepNeg := neg, sweepShift := shift, timerPeriod := period }
theorem test_sweep_target : (sweepTarget .p1 (sweeping true 1 0x100), sweepTarget .p2 (sweeping true 1 0x100),
    sweepTarget .p2 (sweeping false 2 0x404)) = (0x7F, 0x80, 0x505) := by decide
theorem test_sweep_muted : (pulseMuted .p1 (sweeping false 1 0x600), pulseMuted .p2 (sweeping false 2 0x404),
    pulseMuted .p1 (sweeping true 1 0x007)) = (true, false, true) := by decide

/-- V-APU7, V-APU8, V-APU9. -/
theorem test_envelope : (let e1 := envelopeClock (writes [(0x4015, 0x01), (0x4000, 0x01), (0x4003, 0x08)] blank).apu.p1.env
    let e2 := envelopeClock e1
    let e3 := envelopeClock e2
    [e1, e2, e3].map fun e => (e.decay, e.div)) = [(15, 1), (15, 0), (14, 1)] := by decide
theorem test_linear_counter : (let t1 := linearClock (writes [(0x4015, 0x04), (0x4008, 0x03), (0x400B, 0x08)] blank).apu.tri
    let t2 := linearClock t1
    let u := linearClock (writes [(0x4015, 0x04), (0x4008, 0x83), (0x400B, 0x08)] blank).apu.tri
    (t1.lin, t2.lin, (linearClock u).lin)) = (3, 2, 3) := by decide
theorem test_noise : (let n := noiseTimer { Noise.powerOn with lfsr := 0x0001 }
    (n.lfsr, n.timer, lfsrNext true 0x0041)) = (0x4000, 3, 0x0020) := by decide

/-- V-APU10, with the byte 0xEA at 0xC000 (the bench's 0x8000). -/
def dmcStarted : State := writes [(0x4010, 0x8F), (0x4012, 0x00), (0x4013, 0x00), (0x4015, 0x10)] blank
theorem test_dmc_start : (dmcStarted.apu.dmc.curAddr, dmcStarted.apu.dmc.bytesLeft) = (0xC000, 1) := by decide
theorem test_dmc_fetch : (match dmcReader dmcStarted with
    | .ok _ t => decide ((t.apu.dmc.buffer, t.apu.dmc.curAddr, t.apu.dmc.bytesLeft) = (0xEA, 0xC001, 0)) &&
        t.apu.dmc.dmcIrq && t.cpu.irqPending && decide (t.cpu.stall = 4) &&
        decide ((writes [(0x4015, 0x10)] t).apu.dmc.bytesLeft = 1)
    | .stop _ _ => false) = true := by decide

/-- V-APU3's last events at the sequencer's counts. -/
theorem test_frame_sequencer : (let at' := fun n => { Apu.powerOn with fsCounter := n }
    ((frameSeqStep (at' 29828)).1.frameIrq, (frameSeqStep (at' 29828)).2, (frameSeqStep (at' 29829)).1.fsCounter)) =
    (true, true, 0) := by decide

/-! ### OAM DMA, controllers, reset (95_test_vectors.md 2.15, 2.16) -/

/-- V-IO1, V-IO1b on a page whose first and last bytes are 1 and 2: the copy starts at oamAddr 0x10 and wraps. -/
def dmaState (cycle : Nat) : State :=
  (withPpu (fun p => { p with oamAddr := 0x10 }) (poke [(0x0200, 1), (0x02FF, 2)] blank)).setCycle cycle
theorem test_oam_dma : (let s := writes [(0x4014, 0x02)] (dmaState 10)
    let t := writes [(0x4014, 0x02)] (dmaState 11)
    (s.ppu.oam, s.ppu.oamAddr, s.cpu.stall, t.cpu.stall)) = ([(0x0F, 2), (0x10, 1)], 0x10, 513, 514) := by decide +kernel
theorem test_oam_dma_disabled_page : (match busWrite 0x4014 0x40 blank with
    | .stop r _ => some r
    | .ok _ _ => none) = some (.invalidAddress 0x4018) := by decide

/-- V-IO2 and V-IO4: what the strobe latches. -/
def pressed1 (b : Buttons) (s : State) : State := hostAct (.buttons1 b) s
theorem test_controller_latch : (writes [(0x4016, 1), (0x4016, 0)]
    (pressed1 { Buttons.released with a := true, start := true, right := true } blank)).ports.shift1 = 0x89 := by decide
theorem test_controller_relatch : (writes [(0x4016, 0)]
    (pressed1 { Buttons.released with b := true } (writes [(0x4016, 1)] blank))).ports.shift1 = 0x02 := by decide

/-- V-RS2's registers, with the bench's reset vector 0x8000. -/
theorem test_reset : (let s := resetSequence { withPpu (fun p => { p with ctrl := 0x90, mask := 0x1E, w := true, vaddr := 0x2345 })
      (writes [(0x4015, 0x01), (0x4003, 0x00)] (bench 0 ⟨1, 2, 3, 0x80, 0xC3⟩ [])) with }
    (regsOf s.cpu, s.cpu.pc, s.cpu.stall, s.ppu.vaddr, s.ppu.ctrl, s.apu.p1.len)) =
    (⟨1, 2, 3, 0x7D, 0xC7⟩, 0x8000, 7, 0x2345, 0, 0) := by decide

/-! ### Placing an instruction -/

/-- The next step runs exactly the instruction placed. -/
theorem test_withFetchWord : (match step (State.reset.withFetchWord 24 0x12348D) with
    | .next t => decide (peek 0x1234 t = some 0x00) && decide (t.cpu.pc = 3) && decide (t.cpu.stall = 3)
    | _ => false) = true := by decide
theorem test_withFetchWord_moved : (match step (({ State.reset with cpu := { State.reset.cpu with pc := 0x5FFE } }).withFetchWord 16 0x80A9) with
    | .next t => decide (t.cpu.a = 0x80) && decide (t.cpu.pc = 0x0202)
    | _ => false) = true := by decide

/-! ### Witnesses: for every statement with hypotheses, states and operands that meet them all -/

def zero : Regs := ⟨0, 0, 0, 0xFD, 0x24⟩

theorem atInstruction_bench (pc : Addr) (r : Regs) : AtInstruction (bench pc r []) := ⟨rfl, rfl, rfl, rfl⟩
theorem memoriesWf_bench (pc : Addr) (r : Regs) : MemoriesWf (bench pc r []) := ⟨rfl, rfl, rfl, rfl, rfl, rfl, by
  show benchCart.wf = true; decide⟩
theorem statusWf_bench (pc : Addr) : StatusWf (bench pc zero []).cpu.p := by
  show StatusWf 0x24; unfold StatusWf; decide

/-- A memory operand at a literal address that is not disabled. -/
theorem readable_of {m : Operand} {s : State} {a : Addr} (h : (resolve m s).place = .mem a) (hd : disabled a = false) :
    Readable m s := fun b hb => by
  rw [h] at hb; cases hb; exact hd
theorem readable_imm (b : Byte) (s : State) : Readable (.imm b) s := fun _ h => by cases h

/-- The addresses at the edges of the disabled range. -/
theorem disabled_edges : disabled 0x4017 = false ∧ disabled 0x4018 = true ∧ disabled 0x401F = true ∧ disabled 0x4020 = false := by
  decide

theorem witness_DecodedBytesAreTheEncoding : decode [0xAD, 0x34, 0x12, 0xEA] = some (.ldaAbs 0x1234, [0xEA]) := by decide

theorem witness_InvalidOpcodesAreRefused : (0x02 : Byte).toNat ∈ invalidOpcodes ∧ (0xFF : Byte).toNat ∈ invalidOpcodes ∧
    (0xEA : Byte).toNat ∉ invalidOpcodes ∧ AtInstruction (bench 0x0200 zero (code 0x0200 [0x02])) ∧
    busRead 0x0200 (bench 0x0200 zero (code 0x0200 [0x02])) = .ok 0x02 (bench 0x0200 zero (code 0x0200 [0x02])) :=
  ⟨by decide, by decide, by decide, ⟨rfl, rfl, rfl, rfl⟩, by decide⟩

/-- In RAM, and across the end of the address space into RAM. -/
theorem witness_StepRunsDecodedInstruction :
    (AtInstruction (bench 0x0200 zero (code 0x0200 [0x8D, 0x34, 0x12])) ∧
      StoredAt 0x0200 (encode (.staAbs 0x1234)) (bench 0x0200 zero (code 0x0200 [0x8D, 0x34, 0x12]))) ∧
    AtInstruction (bench 0xFFFF zero [(0x0000, 0x05)]) ∧
      StoredAt 0xFFFF (encode (.bcc 0x05)) (bench 0xFFFF zero [(0x0000, 0x05)]) :=
  ⟨⟨⟨rfl, rfl, rfl, rfl⟩, by simp only [encode, Instr.opcode, Instr.operand, Instr.row, Operand.bytes, StoredAt]; decide⟩,
    ⟨rfl, rfl, rfl, rfl⟩, by simp only [encode, Instr.opcode, Instr.operand, Instr.row, Operand.bytes, StoredAt]; decide⟩

def faultedState : State := raiseFault (.invalidAddress 0x4018) State.reset
theorem witness_FaultEndsTheRun : State.reset.cpu.fault = none ∧ faultedState.cpu.fault = some (.invalidAddress 0x4018) ∧
    faultedState.cpu.fault ≠ none := by decide

/-- PC, and an operand, at both ends of the range. -/
theorem witness_DisabledRangeFaults :
    (AtInstruction (bench 0x4018 zero []) ∧ AtInstruction (bench 0x401F zero [])) ∧
    (Instr.incAbs 0x4018).mnemonic = .inc ∧ (resolve (Instr.incAbs 0x4018).operand blank).place = .mem 0x4018 ∧
    (Instr.ldaAbs 0x401F).mnemonic = .lda ∧ (resolve (Instr.ldaAbs 0x401F).operand blank).place = .mem 0x401F :=
  ⟨⟨atInstruction_bench _ _, atInstruction_bench _ _⟩, by decide⟩

/-- The reset state at a boundary: PC 0x0000 holds 0x02, an invalid opcode. -/
def aboutToFault : State := (State.reset.setStall 0).setRam [(0, 0x02)]
theorem inv_aboutToFault : Inv aboutToFault :=
  ⟨⟨⟨rfl, rfl, rfl, rfl, rfl, rfl, by decide⟩, ⟨rfl, rfl⟩, ⟨by decide, by decide⟩, by unfold ApuWf; decide⟩, by decide, rfl⟩
theorem witness_FaultAbandonsTheTick : Inv aboutToFault ∧ aboutToFault.cpu.fault = none ∧
    ∃ t, step aboutToFault = .next t ∧ t.cpu.fault ≠ none :=
  ⟨inv_aboutToFault, rfl, { aboutToFault with cpu := { aboutToFault.cpu with pc := 1, fault := some (.invalidOpcode 0x02 0) } },
    by rfl, by decide⟩

/-- Stall 7 and stall 1, and a state at stall 0. -/
theorem witness_StallTickOnlyCountsDown : (State.reset.cpu.fault = none ∧ State.reset.cpu.stall = 6 + 1 ∧
    step State.reset = .next (finishTick (State.reset.setStall 6))) ∧
    (State.reset.setStall 1).cpu.stall = 0 + 1 ∧ blank.cpu.stall = 0 :=
  ⟨⟨rfl, rfl, rfl⟩, rfl, rfl⟩

theorem witness_BoundaryTakesInterrupts :
    (MemoriesWf (pending 0x8000 0x20 true true) ∧ (pending 0x8000 0x20 true true).cpu.nmiPending = true) ∧
    (MemoriesWf (pending 0x8000 0x20 false true) ∧ (pending 0x8000 0x20 false true).cpu.nmiPending = false ∧
      (pending 0x8000 0x20 false true).cpu.irqPending = true ∧ getFlag .i (pending 0x8000 0x20 false true).cpu.p = false) ∧
    getFlag .i (pending 0x8000 0x24 false true).cpu.p = true ∧ (pending 0x8000 0x24 false true).cpu.fault = none ∧
    (pending 0x8000 0x24 false true).cpu.stall = 0 :=
  ⟨⟨⟨rfl, rfl, rfl, rfl, rfl, rfl, by decide⟩, rfl⟩, ⟨⟨rfl, rfl, rfl, rfl, rfl, rfl, by decide⟩, rfl, rfl, rfl⟩, rfl, rfl, rfl⟩

/-- Stack pointers whose entry does not wrap, and does. -/
theorem witness_InterruptEntrySavesAndVectors : MemoriesWf (bench 0x8000 zero []) ∧ MemoriesWf (bench 0x8000 ⟨0, 0, 0, 0x01, 0x24⟩ []) :=
  ⟨memoriesWf_bench _ _, memoriesWf_bench _ _⟩
theorem witness_RtiUndoesInterruptEntry : MemoriesWf (bench 0x8000 zero []) ∧ StatusWf (bench 0x8000 zero []).cpu.p ∧
    StatusWf (0xE3 : Byte) := ⟨memoriesWf_bench _ _, statusWf_bench _, by unfold StatusWf; decide⟩

theorem witness_LatchesOutliveInstructions : ∃ t, exec .cli (pending 0x8000 0x24 true true) = .next t ∧
    (pending 0x8000 0x24 true true).cpu.nmiPending = true := ⟨_, rfl, rfl⟩

theorem witness_FlagWritesTouchOneBit : (0 < 8) ∧ (7 < 8) := by decide

/-- Immediate, zero page and absolute operands at the last address before and the first after the disabled range. -/
theorem witness_LoadsComplete : Readable (Instr.ldaImm 0x80).operand blank ∧ (Instr.ldaImm 0x80).mnemonic = .lda ∧
    Readable (Instr.ldxAbs 0x4017).operand blank ∧ (Instr.ldxAbs 0x4017).mnemonic = .ldx ∧
    Readable (Instr.ldyAbs 0x4020).operand blank ∧ (Instr.ldyAbs 0x4020).mnemonic = .ldy :=
  ⟨readable_imm _ _, rfl, readable_of rfl (by decide), rfl, readable_of rfl (by decide), rfl⟩

theorem witness_StoresComplete : MemoriesWf blank ∧
    (∀ a, (resolve (Instr.staAbs 0x4017).operand blank).place = .mem a → Writable a blank.cpu.a) ∧
    (∀ a, (resolve (Instr.stxAbs 0x4014).operand blank).place = .mem a → Writable a blank.cpu.x) ∧
    (∀ a, (resolve (Instr.styZp 0xFF).operand blank).place = .mem a → Writable a blank.cpu.y) :=
  ⟨memoriesWf_bench _ _, fun a h => by cases h; exact ⟨by decide, by decide⟩, fun a h => by cases h; exact ⟨by decide, by decide⟩,
    fun a h => by cases h; exact ⟨by decide, by decide⟩⟩

theorem witness_BusReadEffects : peek 0x1FFF blank = some 0x00 ∧ peek 0x8000 blank = some 0xEA ∧
    busRead 0x2004 blank = .ok 0x00 blank ∧ busRead 0x4018 blank = .stop (.invalidAddress 0x4018) blank ∧
    busRead 0x401F blank = .stop (.invalidAddress 0x401F) blank := ⟨by decide, by decide, rfl, rfl, rfl⟩

theorem witness_BusWritesReachOneCell : MemoriesWf blank ∧
    ((0x1FFF : Addr).toNat < 0x2000 ∧ (0x07FF : Addr).toNat % 0x800 = (0x1FFF : Addr).toNat % 0x800 ∧
      (0x07FE : Addr).toNat % 0x800 ≠ (0x1FFF : Addr).toNat % 0x800) ∧
    (0x6000 ≤ (0x7FFF : Addr).toNat ∧ (0x7FFF : Addr).toNat < 0x8000 ∧ (0x6000 : Addr) ≠ 0x7FFF) ∧
    (0x4020 ≤ (0x5FFF : Addr).toNat ∧ (0x5FFF : Addr).toNat < 0x6000 ∧ 0x8000 ≤ (0x8000 : Addr).toNat) ∧
    busWrite 0x0010 0x42 blank = .ok () (writeRam 0x0010 0x42 blank) :=
  ⟨memoriesWf_bench _ _, by decide, by decide, by decide, rfl⟩

theorem witness_PushesComplete : MemoriesWf (bench 0x8000 ⟨0, 0, 0, 0x00, 0x24⟩ []) := memoriesWf_bench _ _
theorem witness_PullsComplete : (4 < 8) ∧ (5 < 8) := by decide

theorem witness_AdcComputes : (Instr.adcAbs 0x4020).mnemonic = .adc ∧ Readable (Instr.adcAbs 0x4020).operand blank ∧
    (resolve (Instr.adcAbs 0x4018).operand blank).place = .mem 0x4018 ∧ disabled 0x4018 = true :=
  ⟨rfl, readable_of rfl (by decide), rfl, by decide⟩
theorem witness_SbcComputes : (Instr.sbcAbs 0x4017).mnemonic = .sbc ∧ Readable (Instr.sbcAbs 0x4017).operand blank ∧
    (resolve (Instr.sbcAbs 0x401F).operand blank).place = .mem 0x401F ∧ disabled 0x401F = true :=
  ⟨rfl, readable_of rfl (by decide), rfl, by decide⟩
theorem witness_DecimalFlagChangesNoArithmetic : (Instr.adcImm 0x01).mnemonic = .adc ∧ ∃ t, exec (.adcImm 0x01) blank = .next t :=
  ⟨rfl, _, rfl⟩
theorem witness_LogicComplete : Readable (Instr.andImm 0x0F).operand blank ∧ (Instr.andImm 0x0F).mnemonic = .and ∧
    Readable (Instr.oraAbs 0x4017).operand blank ∧ (Instr.oraAbs 0x4017).mnemonic = .ora ∧
    Readable (Instr.eorAbs 0x4020).operand blank ∧ (Instr.eorAbs 0x4020).mnemonic = .eor :=
  ⟨readable_imm _ _, rfl, readable_of rfl (by decide), rfl, readable_of rfl (by decide), rfl⟩
theorem witness_BitComplete : (Instr.bitZp 0x10).mnemonic = .bit ∧ Readable (Instr.bitZp 0x10).operand blank ∧
    (Instr.bitAbs 0x4020).mnemonic = .bit ∧ Readable (Instr.bitAbs 0x4020).operand blank :=
  ⟨rfl, readable_of rfl (by decide), rfl, readable_of rfl (by decide)⟩
theorem witness_ComparesComplete : Readable (Instr.cmpImm 0x41).operand blank ∧ (Instr.cmpImm 0x41).mnemonic = .cmp ∧
    (Instr.cpxImm 0xFF).mnemonic = .cpx ∧ (Instr.cpyImm 0x00).mnemonic = .cpy := ⟨readable_imm _ _, rfl, rfl, rfl⟩

/-- A RAM operand for each, and the DMA trigger's neighbour. -/
theorem witness_ReadModifyWritesComplete : MemoriesWf blank ∧ Modifiable (.incZp 0x10) incOf blank ∧
    Modifiable (.decAbs 0x4013) decOf blank ∧ Modifiable (.aslZp 0xFF) aslOf blank ∧ Modifiable (.lsrAbsX 0x401F) lsrOf
      (bench 0 ⟨0, 1, 0, 0xFD, 0x24⟩ []) ∧ Modifiable (.rolZpX 0x10) rolOf blank ∧ Modifiable (.rorAbs 0x4017) rorOf blank :=
  ⟨memoriesWf_bench _ _, ⟨_, rfl, by decide, fun h => absurd h (by decide)⟩, ⟨_, rfl, by decide, fun h => absurd h (by decide)⟩,
    ⟨_, rfl, by decide, fun h => absurd h (by decide)⟩, ⟨_, rfl, by decide, fun h => absurd h (by decide)⟩,
    ⟨_, rfl, by decide, fun h => absurd h (by decide)⟩, ⟨_, rfl, by decide, fun h => absurd h (by decide)⟩⟩

/-- Pointers with both bytes readable, with the first disabled, and with only the second disabled. -/
theorem witness_JumpsComplete : (disabled 0x02FF = false ∧ disabled 0x0200 = false) ∧ disabled 0x4018 = true ∧
    (disabled 0x4017 = false ∧ disabled 0x4018 = true) ∧ (0x4017 : Addr).toNat / 256 * 256 + ((0x4017 : Addr).toNat % 256 + 1) % 256 = 0x4018 := by
  decide
theorem witness_JsrPushesAndJumps : MemoriesWf (bench 0x0203 ⟨0, 0, 0, 0x00, 0x24⟩ []) := memoriesWf_bench _ _
theorem witness_RtsPullsAndIncrements : MemoriesWf blank ∧ ∃ t u, exec (.jsr 0x9000) blank = .next t ∧ u.cpu.s = t.cpu.s ∧
    stackByte blank.cpu.s u = stackByte blank.cpu.s t ∧ stackByte (blank.cpu.s - 1) u = stackByte (blank.cpu.s - 1) t :=
  ⟨memoriesWf_bench _ _, _, _, rfl, rfl, rfl, rfl⟩
theorem witness_BranchesComplete : (Instr.bcc 0x10, !(0x24 : Byte).getLsbD 0).2 = true ∧ (Instr.bcs 0x10, (0x24 : Byte).getLsbD 0).2 = false := by
  decide
theorem witness_BrkEntersThroughIrqVector : MemoriesWf (bench 0x0201 ⟨0, 0, 0, 0x01, 0x24⟩ []) := memoriesWf_bench _ _
theorem witness_RtiRestoresStatusAndPc : (4 < 8) ∧ (5 < 8) ∧ (7 < 8) := by decide

/-- The first and last mirrors. -/
theorem witness_PpuStatusRead : (0x2002 : Addr).toNat % 8 = 2 ∧ 0x2000 ≤ (0x2002 : Addr).toNat ∧ (0x3FFA : Addr).toNat < 0x4000 ∧
    (0x3FFA : Addr).toNat % 8 = 2 := by decide
theorem witness_ScrollAndAddressShareTheToggle : blank.ppu.w = false ∧ (withPpu (fun p => { p with w := true }) blank).ppu.w = true ∧
    ∃ s1 s2 r s3 s4, busWrite 0x2006 0x21 blank = .ok () s1 ∧ busWrite 0x2006 0x08 s1 = .ok () s2 ∧
      busRead 0x2002 s2 = .ok r s3 ∧ busWrite 0x2006 0x3F s3 = .ok () s4 := ⟨rfl, rfl, _, _, _, _, _, rfl, rfl, rfl, rfl⟩

/-- Pointers at the ends of both spaces. -/
theorem witness_PpuDataPort : (0x3EFF : BitVec 16).toNat % 0x4000 < 0x3F00 ∧ (0x4000 : BitVec 16).toNat % 0x4000 < 0x3F00 ∧
    0x3F00 ≤ (0x3F00 : BitVec 16).toNat % 0x4000 ∧ 0x3F00 ≤ (0xFFFF : BitVec 16).toNat % 0x4000 := by decide
theorem witness_VideoMirrors : MemoriesWf blank ∧ vertical.cart.mirroring = .vertical ∧ blank.cart.mirroring = .horizontal ∧
    (0xEFF < 0xF00 ∧ 0xFFF < 0x1000 ∧ 0x7FF < 0x800 ∧ 0x3FF < 0x400) ∧ (28 < 32 ∧ 28 % 4 = 0 ∧ 7 < 8) :=
  ⟨memoriesWf_bench _ _, rfl, rfl, by decide, by decide⟩
/-- CHR RAM and CHR ROM; addresses of one cell and of different cells at the edges of the ranges, in each space. -/
def withChrRom : State := blank.setCart { benchCart with chrUnits := 1, chr := [(0, 0x11)] }
theorem witness_VideoMirrors_cells : (blank.cart.chrUnits = 0 ∧ MemoriesWf withChrRom ∧ withChrRom.cart.chrUnits ≠ 0) ∧
    (0x1FFF % 0x4000 < 0x2000 ∧ 0x5FFF % 0x4000 < 0x2000 ∧ 0x2000 ≤ 0x2000 % 0x4000) ∧
    (videoCell blank.cart 0x5FFF = videoCell blank.cart 0x1FFF ∧ videoCell blank.cart 0x1FFE ≠ videoCell blank.cart 0x1FFF) ∧
    (videoCell blank.cart 0x3EFF = videoCell blank.cart 0x2EFF ∧ videoCell blank.cart 0x2000 ≠ videoCell blank.cart 0x2800) ∧
    (videoCell blank.cart 0x3FFC = videoCell blank.cart 0x3F00 ∧ videoCell blank.cart 0x3F01 ≠ videoCell blank.cart 0x3F11) :=
  ⟨⟨rfl, ⟨rfl, rfl, rfl, rfl, rfl, rfl, by decide⟩, by decide⟩, by decide, by decide, by decide, by decide⟩
theorem witness_OamDataPort : Memory.wf 256 blank.ppu.oam = true := rfl

/-- The positions of the events of R187. -/
def atDot (y d : Nat) : State := withPpu (fun p => { p with scanline := y, dot := d }) blank
theorem witness_NmiRequests : ((atDot 240 0).ppu.scanline = 240 ∧ (atDot 240 0).ppu.dot = 0) ∧
    ¬((atDot 240 1).ppu.scanline = 240 ∧ (atDot 240 1).ppu.dot = 0) := by decide
def hitDot : State := withPpu (fun p => { p with scanline := 1, dot := 9 }) (scene 0x1E 0 0 [(0x2001, 2)] (spriteAt 0 2 0 8))
theorem witness_StatusBitsClearOnPreRender : ((atDot 261 1).ppu.scanline = 261 ∧ (atDot 261 1).ppu.dot = 1) ∧
    (hitDot.ppu.spr0 = false ∧ (ppuStep hitDot).ppu.spr0 = true) := by decide
def overflowDot : State := withPpu (fun p => { p with dot := 257 }) (scene 0x18 0 0 [] (spritesOnLine0 9))
theorem witness_StatusBitsClearOnPreRender_overflow : overflowDot.ppu.ovf = false ∧ (ppuStep overflowDot).ppu.ovf = true := by
  decide +kernel
/-- Dot 1 (x = 0), dot 256 (x = 255), the hit's dot, and dot 257, each on a visible scanline. -/
theorem witness_StatusBitsClearOnPreRender_dots : ((atDot 239 256).ppu.scanline ≤ 239 ∧ (atDot 239 256).ppu.dot = 255 + 1 ∧ 255 < 256) ∧
    ((atDot 0 1).ppu.scanline ≤ 239 ∧ (atDot 0 1).ppu.dot = 0 + 1) ∧ (hitDot.ppu.scanline ≤ 239 ∧ hitDot.ppu.dot = 8 + 1) ∧
    (overflowDot.ppu.scanline ≤ 239 ∧ overflowDot.ppu.dot = 257) := by decide
/-- Hidden and shown backgrounds and sprites at column 7, a sprite's first and last pixel of both heights, one beside it. -/
theorem witness_FrameIsDelivered_fetches : (7 < 8 ∧ (scene 0x18 0 0 [] []).ppu.mask.getLsbD 1 = false ∧
      (scene 0x18 0 0 [] []).ppu.mask.getLsbD 2 = false ∧ (scene 0x00 0 0 [] []).ppu.mask.getLsbD 3 = false ∧
      (scene 0x00 0 0 [] []).ppu.mask.getLsbD 4 = false) ∧
    ((scene 0x1E 0 0 [] []).ppu.mask.getLsbD 3 = true ∧ (scene 0x1E 0 0 [] []).ppu.mask.getLsbD 1 = true ∧
      (scene 0x1E 0 0 [] []).ppu.mask.getLsbD 4 = true ∧ (scene 0x1E 0 0 [] []).ppu.mask.getLsbD 2 = true) ∧
    ((spriteAt 238 2 0 248).read 0 = 238 ∧ (spriteAt 238 2 0 248).read 3 = 248 ∧ 238 < 239 ∧ 255 = 248 + 7 ∧ 7 < 8 ∧ 239 = 238 + 1 + 0) ∧
    (16 = 0 + 1 + 15 ∧ 15 < (if (scene 0x1E 0x20 0 [] (spriteAt 0 3 0 40)).ppu.ctrl.getLsbD 5 then 16 else 8)) ∧
    (239 ≤ (0xFF : Byte).toNat ∧ (40 : Byte).toNat + 8 ≤ 48 ∧ 39 < (40 : Byte).toNat) ∧
    sprPixelOf (scene 0x1E 0 0 [] (spriteAt 238 2 0 248)) 0 255 239 = some ⟨17, false⟩ ∧
    sprPixelOf (scene 0x1E 0 0 [] (spriteAt 0 1 0 20)) 0 20 1 = some ⟨19, false⟩ ∧ 0 < 64 := by decide
theorem witness_FrameIsDelivered : ((atDot 240 0).ppu.scanline = 240 ∧ (atDot 240 0).ppu.dot = 0) ∧ 255 < 256 ∧ 239 < 240 ∧
    (bgPixel (scene 0x1E 0 0 [(0x2022, 1)] (Memory.ofBytes 4 [7, 1, 0x23, 16])) 16 8 ≠ 0 ∧
      sprPixelOf (scene 0x1E 0 0 [(0x2022, 1)] (Memory.ofBytes 4 [7, 1, 0x23, 16])) 0 16 8 = some ⟨31, true⟩) := by decide
theorem witness_FrameIs89342Dots : (atDot 261 340).ppu.scanline < 262 ∧ (atDot 261 340).ppu.dot < 341 := by decide

theorem witness_LengthCounterLoads : (0x0F : Byte).getLsbD 4 = false ∧ (0xFF : Byte).toNat / 8 = 31 ∧ Apu.powerOn.p1.len = 0 ∧
    Apu.powerOn.p2.len = 0 ∧ Apu.powerOn.tri.len = 0 ∧ Apu.powerOn.noise.len = 0 := by decide
theorem witness_SweepRetargetsOrMutes : (let p := { sweeping true 1 0x100 with sweepEn := true }
    p.sweepDiv = 0 ∧ p.sweepEn = true ∧ p.sweepShift ≠ 0 ∧ pulseMuted .p1 p = false ∧ pulseMuted .p1 (sweeping false 1 0x600) = true) := by
  decide

/-- More than one byte left, the last byte, and nothing to fetch. -/
def dmcState (left : BitVec 12) (at' : Addr) (empty : Bool) : State :=
  blank.setApu { blank.apu with dmc := { Dmc.powerOn with bytesLeft := left, curAddr := at', bufferEmpty := empty } }
theorem witness_DmcReaderFetches : ((dmcState 2 0xFFFF true).apu.dmc.bufferEmpty = true ∧ (dmcState 2 0xFFFF true).apu.dmc.bytesLeft ≠ 0 ∧
    0x8000 ≤ (dmcState 2 0xFFFF true).apu.dmc.curAddr.toNat ∧ (dmcState 2 0xFFFF true).apu.dmc.bytesLeft ≠ 1) ∧
    ((dmcState 1 0x8000 true).apu.dmc.bytesLeft = 1 ∧ (dmcState 1 0x8000 true).apu.dmc.loop = false) ∧
    (dmcState 1 0x8000 false).apu.dmc.bufferEmpty = false ∧ (dmcState 0 0x8000 true).apu.dmc.bytesLeft = 0 := by decide
/-- The last byte of a looping sample. -/
def dmcLooping : State :=
  blank.setApu { blank.apu with dmc := { Dmc.powerOn with bytesLeft := 1, curAddr := 0xFFFF, loop := true, sampleLenReg := 0xFF } }
theorem witness_DmcReaderFetches_loop : dmcLooping.apu.dmc.bufferEmpty = true ∧ dmcLooping.apu.dmc.bytesLeft ≠ 0 ∧
    0x8000 ≤ dmcLooping.apu.dmc.curAddr.toNat ∧ dmcLooping.apu.dmc.bytesLeft = 1 ∧ dmcLooping.apu.dmc.loop = true := by decide

theorem witness_OamDmaCopiesAPage : MemoriesWf blank ∧ (0x1F : Byte).toNat < 0x20 ∧ 0x60 ≤ (0x60 : Byte).toNat ∧ 0x60 ≤ (0xFF : Byte).toNat :=
  ⟨memoriesWf_bench _ _, by decide⟩
theorem witness_ControllerShiftsOutButtons : (0x01 : Byte).getLsbD 0 = true ∧ (0xFE : Byte).getLsbD 0 = false ∧
    blank.host.port2Device = .standard ∧
    ∃ s1 s2, busWrite 0x4016 0x01 blank = .ok () s1 ∧ busWrite 0x4016 0xFE s1 = .ok () s2 :=
  ⟨rfl, rfl, rfl, _, _, rfl, rfl⟩
def withLightGun : State := blank.setHost (HostInputs.idle .lightGun)
theorem witness_ControllerShiftsOutButtons_gun : withLightGun.host.port2Device = .lightGun ∧ (1 ≤ 4 ∧ 4 ≤ 4) ∧ (5 ≤ 7 ∧ 7 ≤ 7) ∧ 2 ≤ 2 := by
  decide

/-- An image of one PRG bank of NOPs. -/
def nopImage : List Byte := header nesMagic 1 0 0 0 ++ List.replicate 16384 0xEA
theorem nopImage_length : nopImage.length = 16400 := by
  unfold nopImage; rw [List.length_append, List.length_replicate]; rfl
theorem nopImage_header (k : Nat) (h : k < 16) : headerByte nopImage k = headerByte (header nesMagic 1 0 0 0) k := by
  unfold headerByte nopImage
  rw [List.getD_append _ _ _ _ (by simpa [header, nesMagic] using h)]
theorem nopImage_wf : malformed nopImage = none := by
  have h4 : headerPrgUnits nopImage = 1 := by unfold headerPrgUnits; rw [nopImage_header 4 (by omega)]; rfl
  have h5 : headerChrUnits nopImage = 0 := by unfold headerChrUnits; rw [nopImage_header 5 (by omega)]; rfl
  have h6 : prgOffset nopImage = 16 := by unfold prgOffset headerHasTrainer; rw [nopImage_header 6 (by omega)]; rfl
  have hm : headerMapper nopImage = 0 := by
    unfold headerMapper; rw [nopImage_header 6 (by omega), nopImage_header 7 (by omega)]; rfl
  have hk : headerMagicOk nopImage = true := by
    unfold headerMagicOk nopImage
    rw [List.take_append_of_le_length (by simp [header, nesMagic])]; rfl
  unfold malformed
  rw [h4, h5, h6, hm, hk, nopImage_length]
  rfl
theorem witness_ResetSequenceEffect : ∃ c, loadCart nopImage = .ok c := by unfold loadCart; rw [nopImage_wf]; exact ⟨_, rfl⟩
theorem witness_ConstructionNeedsAWellFormedImage : ∃ s, construct nopImage Params.blank = .ok s := by
  obtain ⟨c, h⟩ := witness_ResetSequenceEffect
  unfold construct; rw [h]; exact ⟨_, rfl⟩
/-- PRG addresses at the ends of the window and at the 16 KB mirror, and the last byte of each memory. -/
theorem witness_ConstructionNeedsAWellFormedImage_addresses : 0x8000 ≤ (0x8000 : Addr).toNat ∧ 0x8000 ≤ (0xFFFF : Addr).toNat ∧
    ((0xC000 : Addr).toNat - 0x8000) % 16384 = ((0x8000 : Addr).toNat - 0x8000) % 16384 ∧
    0x7FF < 0x800 ∧ 0x7FF < (if (0x00 : Byte).getLsbD 3 then 0x1000 else 0x800) ∧
    0xFFF < (if (0x08 : Byte).getLsbD 3 then 0x1000 else 0x800) ∧ 255 < 256 ∧ 31 < 32 ∧ 0x1FFF < 0x2000 := by decide
theorem witness_ConstructionNeedsAWellFormedImage_chrRam : (nopImage.getD 5 0).toNat = 0 := by
  rw [show nopImage.getD 5 0 = headerByte nopImage 5 from rfl, nopImage_header 5 (by omega)]; rfl

theorem witness_StepKeepsInv : Inv aboutToFault ∧ ∃ t, step aboutToFault = .next t :=
  ⟨inv_aboutToFault, _, witness_FaultAbandonsTheTick.2.2.choose_spec.1⟩
theorem witness_HostKeepsInv : (∃ s, construct nopImage Params.blank = .ok s) ∧ Inv aboutToFault :=
  ⟨witness_ConstructionNeedsAWellFormedImage, inv_aboutToFault⟩
theorem witness_CartridgeRomIsImmutable : (∃ c, loadCart nopImage = .ok c) ∧ ∃ t, step State.reset = .next t :=
  ⟨witness_ResetSequenceEffect, _, rfl⟩

end Sys2Proof.Tests
end

section
/-! PROOFS. Family 10_state.md: the bits a flag write and SetZN touch (R24, R12), and that ADC and SBC do not depend on D
(R28, R112). -/

namespace Sys2Proof.Machine

/-! ### Bits of P -/

theorem bitOf_seven (v : Byte) : bitOf v 7 = decide (128 ≤ v.toNat) :=
  (BitVec.msb_eq_getLsbD_last v).symm.trans (BitVec.msb_eq_decide v)

theorem beq_zero_eq_decide_toNat (v : Byte) : (v == 0) = decide (v.toNat = 0) :=
  (beq_eq_decide ..).trans (decide_eq_decide.2 BitVec.toNat_inj.symm)

/-- Every bit of P after SetZN (R12). -/
theorem setZN_bit (v p : Byte) (k : Nat) (hk : k < 8) :
    (setZN v p).getLsbD k =
      if k = 7 then decide (128 ≤ v.toNat) else if k = 1 then decide (v.toNat = 0) else p.getLsbD k := by
  rw [setZN, putFlag_bit _ _ _ _ hk, putFlag_bit _ _ _ _ hk, bitOf_seven, beq_zero_eq_decide_toNat]
  rfl

/-- Settles O15: both writes are read bit by bit, SetZN being a write of Z followed by a write of N. -/
theorem flagWritesTouchOneBit : Obligations.FlagWritesTouchOneBit :=
  ⟨putFlag_bit, setZN_bit, rfl⟩

/-! ### Writes of different flags commute -/

theorem putFlag_comm {f g : Flag} (h : f ≠ g) (u v : Bool) (p : Byte) :
    putFlag f u (putFlag g v p) = putFlag g v (putFlag f u p) := by
  refine BitVec.eq_of_getLsbD_eq fun k hk => ?_
  simp only [putFlag_bit _ _ _ _ hk]
  by_cases hf : k = flagBit f
  · have hg : k ≠ flagBit g := fun e => h (flagBit_injective (hf.symm.trans e))
    rw [if_pos hf, if_neg hg, if_pos hf]
  · rw [if_neg hf, if_neg hf]

/-- The flags ADC and SBC write are C, V, Z and N; a write of D goes past them. -/
theorem aluStatus_putFlag_d (o : AluOut) (d : Bool) (p : Byte) :
    aluStatus o (putFlag .d d p) = putFlag .d d (aluStatus o p) := by
  unfold aluStatus setZN
  rw [putFlag_comm (show Flag.c ≠ .d by decide), putFlag_comm (show Flag.v ≠ .d by decide),
    putFlag_comm (show Flag.z ≠ .d by decide), putFlag_comm (show Flag.n ≠ .d by decide)]

/-- The one shape of ADC and SBC on a loaded operand: `f` of A, the operand and C gives A, C, V, Z and N. -/
def aluStep (f : Byte → Byte → Bool → AluOut) (m : Byte) (s : State) : State :=
  (s.setA (f s.cpu.a m (getFlag .c s.cpu.p)).value).setP (aluStatus (f s.cpu.a m (getFlag .c s.cpu.p)) s.cpu.p)

theorem adcStep_eq_aluStep : adcStep = aluStep adcOf := rfl
theorem sbcStep_eq_aluStep : sbcStep = aluStep sbcOf := rfl

theorem aluStep_putF_d (f : Byte → Byte → Bool → AluOut) (d : Bool) (m : Byte) (s : State) :
    aluStep f m (s.putF .d d) = (aluStep f m s).putF .d d := by
  have hc : getFlag .c (putFlag .d d s.cpu.p) = getFlag .c s.cpu.p := getFlag_putFlag_other (by decide) _ _
  simp only [aluStep, State.putF, State.setP_cpu, State.setA_cpu, hc, aluStatus_putFlag_d]
  rfl

/-! ### Bus reads neither consult nor move the CPU's registers -/

/-- The state with a function applied to the CPU's registers. -/
def State.mapCpu (g : Cpu → Cpu) (s : State) : State := { s with cpu := g s.cpu }

theorem State.putF_eq_mapCpu (f : Flag) (v : Bool) :
    State.putF f v = State.mapCpu fun c => { c with p := putFlag f v c.p } := rfl

/-- A function applied to the state an access leaves, whether or not it faulted. -/
def Access.mapState {α : Type} (g : State → State) : Access α → Access α
  | .ok v s => .ok v (g s)
  | .stop r s => .stop r (g s)

theorem readPpuData_mapCpu (g : Cpu → Cpu) (s : State) :
    readPpuData (s.mapCpu g) = ((readPpuData s).1, (readPpuData s).2.mapCpu g) := by
  have haddr : dataAddr (s.mapCpu g) = dataAddr s := rfl
  simp only [readPpuData, haddr]
  split <;> rfl

theorem readPpu_mapCpu (g : Cpu → Cpu) (r : Nat) (s : State) :
    readPpu r (s.mapCpu g) = ((readPpu r s).1, (readPpu r s).2.mapCpu g) := by
  unfold readPpu
  split
  case h_3 => exact readPpuData_mapCpu g s
  all_goals rfl

theorem readPort1_mapCpu (g : Cpu → Cpu) (s : State) :
    readPort1 (s.mapCpu g) = ((readPort1 s).1, (readPort1 s).2.mapCpu g) := by
  have hstrobe : (s.mapCpu g).ports.strobe = s.ports.strobe := rfl
  simp only [readPort1, hstrobe]
  split <;> rfl

theorem readPort2Standard_mapCpu (g : Cpu → Cpu) (s : State) :
    readPort2Standard (s.mapCpu g) = ((readPort2Standard s).1, (readPort2Standard s).2.mapCpu g) := by
  have hstrobe : (s.mapCpu g).ports.strobe = s.ports.strobe := rfl
  simp only [readPort2Standard, hstrobe]
  split <;> rfl

theorem readPort2_mapCpu (g : Cpu → Cpu) (s : State) :
    readPort2 (s.mapCpu g) = ((readPort2 s).1, (readPort2 s).2.mapCpu g) := by
  have hdev : (s.mapCpu g).host.port2Device = s.host.port2Device := rfl
  simp only [readPort2, hdev]
  split
  · exact readPort2Standard_mapCpu g s
  · rfl

theorem ioRead_mapCpu (g : Cpu → Cpu) (a : Addr) (s : State) :
    ioRead a (s.mapCpu g) = ((ioRead a s).1, (ioRead a s).2.mapCpu g) := by
  unfold ioRead
  split
  · rfl
  · exact readPort1_mapCpu g s
  · exact readPort2_mapCpu g s
  · rfl

theorem cartRead_mapCpu (g : Cpu → Cpu) (a : Addr) (s : State) :
    cartRead a (s.mapCpu g) = ((cartRead a s).1, (cartRead a s).2.mapCpu g) := by
  unfold cartRead
  split
  · rfl
  split <;> rfl

/-- A bus read returns the same byte, or the same fault, whatever the CPU's registers hold, and leaves them as they are. -/
theorem busRead_mapCpu (g : Cpu → Cpu) (a : Addr) (s : State) :
    busRead a (s.mapCpu g) = (busRead a s).mapState (State.mapCpu g) := by
  unfold busRead
  rw [readPpu_mapCpu, ioRead_mapCpu, cartRead_mapCpu]
  split
  · rfl
  split
  · rfl
  split
  · rfl
  split <;> rfl

/-! ### A read instruction and a flag write that its operation lets past -/

/-- No resolver looks at P. -/
theorem resolve_putF (f : Flag) (v : Bool) (m : Operand) (s : State) : resolve m (s.putF f v) = resolve m s := by
  cases m <;> rfl

theorem loadPlace_putF (f : Flag) (v : Bool) (p : Place) (s : State) :
    loadPlace p (s.putF f v) = (loadPlace p s).mapState (State.putF f v) := by
  cases p with
  | mem a => rw [State.putF_eq_mapCpu]; exact busRead_mapCpu _ a s
  | _ => rfl

/-- If what is done with the operand commutes with a flag write, so does the whole read instruction, whether or not its
operand faults. -/
theorem readInstr_putF {f : Flag} {v : Bool} {m : Operand} {base : Nat} {use : Byte → State → State} {s t : State}
    (huse : ∀ b s, use b (s.putF f v) = (use b s).putF f v) (h : readInstr m base use s = .next t) :
    readInstr m base use (s.putF f v) = .next (t.putF f v) := by
  unfold readInstr at h ⊢
  rw [resolve_putF, loadPlace_putF]
  cases hload : loadPlace (resolve m s).place s with
  | ok b s' =>
    rw [hload] at h
    cases h
    simp only [Access.mapState, Access.andThen_ok, huse]
    rfl
  | stop r s' =>
    rw [hload] at h
    cases h
    rfl

/-- Settles O25: ADC and SBC are read instructions whose operation commutes with a write of D. -/
theorem decimalFlagChangesNoArithmetic : Obligations.DecimalFlagChangesNoArithmetic := by
  intro i d s t hi h
  rw [exec_eq_meaning] at h ⊢
  obtain hm | hm := hi <;> rw [hm] at h ⊢
  · exact readInstr_putF (adcStep_eq_aluStep ▸ aluStep_putF_d adcOf d) h
  · exact readInstr_putF (sbcStep_eq_aluStep ▸ aluStep_putF_d sbcOf d) h

end Sys2Proof.Machine
end

section
/-! PROOFS. Family 20_memory.md: the disabled range (R41), the reach of CPU-bus accesses (R37, R38, R50, R51, R59), the video
bus (R52–R55), and the loader and construction from an image (R45–R48). -/

namespace Sys2Proof.Machine

/-! ### Accesses in the disabled range -/

section
variable {m : Operand} {base : Nat} {s : State} {a : Addr} (hp : (resolve m s).place = .mem a) (hd : disabled a = true)
include hp hd

theorem readInstr_disabled (use : Byte → State → State) :
    readInstr m base use s = .next (s.setFault (some (.invalidAddress a))) := by
  simp only [readInstr, hp, loadPlace, busRead_disabled hd, Access.andThen_stop, complete_stop]

theorem writeInstr_disabled (v : Byte) : writeInstr m base v s = .next (s.setFault (some (.invalidAddress a))) := by
  simp only [writeInstr, hp, storePlace, busWrite_disabled hd, Access.andThen_stop, complete_stop]

/-- The read comes first, so nothing is computed or written. -/
theorem rmwInstr_disabled (f : Byte → Bool → RmwOut) :
    rmwInstr m base f s = .next (s.setFault (some (.invalidAddress a))) := by
  simp only [rmwInstr, hp, loadPlace, busRead_disabled hd, Access.andThen_stop, complete_stop]

end

/-- A fetch whose opcode address is disabled ends before PC moves (R41, R161). -/
theorem executeOne_disabled {s : State} (hd : disabled s.cpu.pc = true) :
    executeOne s = .next (s.setFault (some (.invalidAddress s.cpu.pc))) := by
  simp only [executeOne, fetch, busRead_disabled hd, Access.andThen_stop, raiseFault_def]

/-- At an instruction boundary the CPU tick is the next instruction (R164, R230). -/
theorem cpuTick_atInstruction {s : State} (h : AtInstruction s) : cpuTick s = executeOne s := by
  obtain ⟨-, hstall, hnmi, hirq⟩ := h
  simp [cpuTick, boundary, hstall, hnmi, hirq]

/-- A CPU tick that ends with a fault recorded is the whole step (R160, R229). -/
theorem step_of_faulting_tick {s t : State} {r : Fault} (hs : s.cpu.fault = none) (ht : cpuTick s = .next t)
    (hr : t.cpu.fault = some r) : step s = .next t := by
  simp [step, hs, systemTick, ht, afterCpuTick, hr]

/-- Settles O7: the fetch, or the operand's first access, is a bus access that stops with no effect. -/
theorem disabledRangeFaults : Obligations.DisabledRangeFaults := by
  refine ⟨fun s hs hlo hhi => ?_, fun i s a hi hp hlo hhi => ?_⟩
  · have hd : disabled s.cpu.pc = true := (disabled_iff _).2 ⟨hlo, by omega⟩
    exact step_of_faulting_tick hs.1 ((cpuTick_atInstruction hs).trans (executeOne_disabled hd)) rfl
  · have hd : disabled a = true := (disabled_iff a).2 ⟨hlo, by omega⟩
    rw [exec_eq_meaning]
    cases hm : i.mnemonic
    case lda | ldx | ldy | adc | sbc | and | ora | eor | bit | cmp | cpx | cpy => exact readInstr_disabled hp hd _
    case sta | stx | sty => exact writeInstr_disabled hp hd _
    case inc | dec | asl | lsr | rol | ror => exact rmwInstr_disabled hp hd _
    all_goals exact absurd (hm ▸ hi) (by decide)

/-! ### CPU-bus reads -/

/-- Settles O18: storage reads are pure, every read has at most the effects of R59, and only a disabled address stops one. -/
theorem busReadEffects : Obligations.BusReadEffects := by
  refine ⟨fun _ _ _ h => busRead_storage h, fun a s t v h => ?_, fun a s t r => ⟨fun h => ?_, ?_⟩⟩
  · exact ⟨busRead_effect h, (busRead_effect h).memories, (busRead_effect h).storage⟩
  · obtain ⟨hd, hr, ht⟩ := busRead_stop h
    obtain ⟨hlo, hhi⟩ := (disabled_iff a).1 hd
    exact ⟨hlo, by omega, hr, ht⟩
  · rintro ⟨hlo, hhi, rfl, rfl⟩
    exact busRead_disabled ((disabled_iff a).2 ⟨hlo, by omega⟩) t

/-! ### Stored cells of the CPU space -/

/-- The byte a stored cell holds. -/
def storedByte (s : State) : StoredCell → Byte
  | .ram k => Memory.read s.ram k
  | .prgRam k => Memory.read s.prgRam k
  | .prgRom k => Memory.read s.cart.prg k

theorem peek_eq_map_storedByte (a : Addr) (s : State) : peek a s = (storedCell s.cart a).map (storedByte s) := by
  unfold peek
  split <;> next h => rw [h]; rfl

theorem storedCell_ram {a : Addr} (h : a.toNat < 0x2000) (c : Cart) :
    storedCell c a = some (.ram (a.toNat % 0x800)) := if_pos h

theorem storedCell_prgRam {a : Addr} (hlo : 0x6000 ≤ a.toNat) (hhi : a.toNat < 0x8000) (c : Cart) :
    storedCell c a = some (.prgRam (a.toNat - 0x6000)) := by
  unfold storedCell
  rw [if_neg (by omega), if_neg (by omega), if_pos hhi]
  rfl

theorem storedCell_prgRom {a : Addr} (h : 0x8000 ≤ a.toNat) (c : Cart) :
    storedCell c a = some (.prgRom (c.prgIndex a)) := by
  unfold storedCell
  rw [if_neg (by omega), if_neg (by omega), if_neg (by omega)]

/-- PRG RAM has no mirrors: its cell tells the address. -/
theorem toNat_of_storedCell_prgRam {c : Cart} {a : Addr} {k : Nat} (h : storedCell c a = some (.prgRam k)) :
    a.toNat = 0x6000 + k := by
  unfold storedCell prgRamIndex at h
  split_ifs at h <;> simp only [Option.some.injEq, reduceCtorEq, StoredCell.prgRam.injEq] at h
  omega

theorem peek_of_cell {a : Addr} {s : State} {cell : StoredCell} (h : storedCell s.cart a = some cell) :
    peek a s = some (storedByte s cell) := by
  rw [peek_eq_map_storedByte, h]; rfl

/-- A change that leaves every cell but the one at `a` is one outside of `a`'s cell. -/
theorem sameStorageExcept_of_cell {a : Addr} {s t : State} {cell : StoredCell} (hcart : t.cart = s.cart)
    (ha : storedCell s.cart a = some cell) (hother : ∀ c, c ≠ cell → storedByte t c = storedByte s c) :
    SameStorageExcept a s t := by
  intro b hb
  rw [peek_eq_map_storedByte, peek_eq_map_storedByte, hcart]
  cases hc : storedCell s.cart b with
  | none => rfl
  | some c =>
    have hne : c ≠ cell := by simpa [hc, ha] using hb
    exact congrArg some (hother c hne)

/-! ### CPU-bus writes to a cell -/

theorem busWrite_ram {a : Addr} (h : a.toNat < 0x2000) (v : Byte) (s : State) :
    busWrite a v s = .ok () (writeRam a v s) := if_pos h

/-- Above the disabled range a write goes to the mapper (R37). -/
theorem busWrite_cart {a : Addr} (h : 0x4020 ≤ a.toNat) (v : Byte) (s : State) :
    busWrite a v s = .ok () (cartWrite a v s) := by
  unfold busWrite
  rw [if_neg (by omega), if_neg (by omega), if_neg (by omega), if_neg (by omega)]

theorem writeRam_only_cell {s : State} (hs : MemoriesWf s) {a : Addr} (h : a.toNat < 0x2000) (v : Byte) :
    SameStorageExcept a s (writeRam a v s) := by
  refine sameStorageExcept_of_cell rfl (storedCell_ram h _) fun c hc => ?_
  cases c with
  | ram k => exact Memory.read_write_other' (fun e => hc (congrArg _ e)) hs.1
  | prgRam k => rfl
  | prgRom k => rfl

theorem setPrgRam_only_cell {s : State} (hs : MemoriesWf s) {a : Addr} (hlo : 0x6000 ≤ a.toNat)
    (hhi : a.toNat < 0x8000) (v : Byte) :
    SameStorageExcept a s (s.setPrgRam (Memory.write s.prgRam (prgRamIndex a) v)) := by
  refine sameStorageExcept_of_cell rfl (storedCell_prgRam hlo hhi _) fun c hc => ?_
  cases c with
  | ram k => rfl
  | prgRam k => exact Memory.read_write_other' (fun e => hc (congrArg _ e)) hs.2.1
  | prgRom k => rfl

/-- A write that completes changes no stored byte outside of the cell at its address (R38, R50, R51). -/
theorem busWrite_only_cell {a : Addr} {v : Byte} {s t : State} (hs : MemoriesWf s) (h : busWrite a v s = .ok () t) :
    SameStorageExcept a s t := by
  obtain hsame | ⟨hlt, rfl⟩ | ⟨hlo, hhi, rfl⟩ := (busWrite_side h).2
  · exact fun b _ => hsame.storage b
  · exact writeRam_only_cell hs hlt v
  · exact setPrgRam_only_cell hs hlo hhi v

/-- Settles O19: each clause is the one cell of its address, read back or left alone. -/
theorem busWritesReachOneCell : Obligations.BusWritesReachOneCell := by
  refine ⟨fun a b v s hs ha => ?_, fun a b v s hs hlo hhi => ?_, fun a v s ha => ?_,
    fun a v s t hs h => busWrite_only_cell hs h, fun a v s hlo hhi => ?_⟩
  · refine ⟨writeRam a v s, busWrite_ram ha v s, rfl, fun hb hba => ?_, fun hb hba => ?_⟩
    · rw [peek_of_cell (storedCell_ram hb _), hba]
      exact congrArg some (Memory.read_write_same' hs.1)
    · refine writeRam_only_cell hs ha v b (.inr ?_)
      rw [storedCell_ram hb, storedCell_ram ha]
      simpa using hba
  · refine ⟨s.setPrgRam (Memory.write s.prgRam (prgRamIndex a) v), ?_, rfl, ?_, fun hba => ?_⟩
    · rw [busWrite_cart (by omega), cartWrite, if_pos ⟨hlo, hhi⟩]
    · rw [peek_of_cell (storedCell_prgRam hlo hhi _)]
      exact congrArg some (Memory.read_write_same' hs.2.1)
    · refine setPrgRam_only_cell hs hlo hhi v b (.inr fun hcell => hba ?_)
      rw [storedCell_prgRam hlo hhi] at hcell
      have := toNat_of_storedCell_prgRam hcell
      exact BitVec.eq_of_toNat_eq (by omega)
  · rw [busWrite_cart (by omega), cartWrite, if_neg (by omega)]
  · exact busWrite_disabled ((disabled_iff a).2 ⟨hlo, by omega⟩) v s

/-! ### The cell of a video address -/

theorem videoCell_pattern {a : Nat} (h : a % 0x4000 < 0x2000) (c : Cart) : videoCell c a =
    if c.chrUnits = 0 then .chrRam (a % 0x4000) else .chrRom (a % 0x4000 % (8192 * c.chrUnits)) := if_pos h

theorem videoCell_nametable {a : Nat} (hlo : 0x2000 ≤ a % 0x4000) (hhi : a % 0x4000 < 0x3F00) (c : Cart) :
    videoCell c a = .nametable (nametableByte c.mirroring (a % 0x1000)) := by
  rw [videoCell, if_neg (by omega), if_pos hhi]

theorem videoCell_palette {a : Nat} (h : 0x3F00 ≤ a % 0x4000) (c : Cart) :
    videoCell c a = .palette (if a % 4 = 0 then 0 else a % 32) := by
  rw [videoCell, if_neg (by omega), if_neg (by omega)]

/-! ### The machine's own index functions give the same cell -/

theorem foldVideo_pattern {a : Nat} (h : a % 0x4000 < 0x2000) : foldVideo a = a % 0x4000 := by
  unfold foldVideo; dsimp only; rw [if_neg (by omega)]

theorem foldVideo_nametable_eq {a : Nat} (hlo : 0x2000 ≤ a % 0x4000) (hhi : a % 0x4000 < 0x3F00) :
    foldVideo a = 0x2000 + a % 0x1000 := by
  unfold foldVideo; dsimp only; split <;> omega

theorem foldVideo_palette {a : Nat} (h : 0x3F00 ≤ a % 0x4000) : foldVideo a = a % 0x4000 := by
  unfold foldVideo; dsimp only; rw [if_neg (by omega)]

/-- R54's `NtIndex` is the number the claims use. -/
theorem ntIndex_eq_nametableByte (m : Mirroring) (o : Nat) (h : o < 0x1000) :
    ntIndex m (0x2000 + o) = nametableByte m o := by
  unfold ntIndex nametableByte
  cases m <;> dsimp only <;> omega

/-- R55's `PalIndex` is the number the claims use. -/
theorem palIndex_mod (a : Nat) : palIndex (a % 0x4000) = if a % 4 = 0 then 0 else a % 32 := by
  unfold palIndex
  dsimp only
  rw [show a % 0x4000 % 0x20 = a % 32 by omega, show a % 32 % 4 = a % 4 by omega]

/-- The state with the byte `v` in a video cell; CHR ROM takes none (R52). -/
def storeVideo (v : Byte) (s : State) : VideoCell → State
  | .chrRom _ => s
  | .chrRam k => s.setChrRam (Memory.write s.chrRam k v)
  | .nametable k => s.setVram (Memory.write s.vram k v)
  | .palette k => s.setPpu { s.ppu with palette := Memory.write s.ppu.palette k v }

/-- A video read is a read of the address's cell. -/
theorem vread_eq_videoByte (a : Nat) (s : State) : vread s a = videoByte s (videoCell s.cart a) := by
  unfold vread
  dsimp only
  by_cases hp : a % 0x4000 < 0x2000
  · rw [foldVideo_pattern hp, if_pos hp, videoCell_pattern hp]
    unfold patternRead
    split <;> rfl
  by_cases hn : a % 0x4000 < 0x3F00
  · rw [foldVideo_nametable_eq (by omega) hn, if_neg (by omega), if_pos (by omega),
      ntIndex_eq_nametableByte _ _ (by omega), videoCell_nametable (by omega) hn]
    rfl
  · rw [foldVideo_palette (by omega), if_neg hp, if_neg (by omega), palIndex_mod, videoCell_palette (by omega)]
    rfl

/-- A video write is a store to the address's cell. -/
theorem vwrite_eq_storeVideo (a : Nat) (v : Byte) (s : State) :
    vwrite a v s = storeVideo v s (videoCell s.cart a) := by
  unfold vwrite
  dsimp only
  by_cases hp : a % 0x4000 < 0x2000
  · rw [foldVideo_pattern hp, if_pos hp, videoCell_pattern hp]
    unfold patternWrite
    split <;> rfl
  by_cases hn : a % 0x4000 < 0x3F00
  · rw [foldVideo_nametable_eq (by omega) hn, if_neg (by omega), if_pos (by omega),
      ntIndex_eq_nametableByte _ _ (by omega), videoCell_nametable (by omega) hn]
    rfl
  · rw [foldVideo_palette (by omega), if_neg hp, if_neg (by omega), palIndex_mod, videoCell_palette (by omega)]
    rfl

/-! ### Stores to a video cell -/

theorem storeVideo_cart (v : Byte) (s : State) (c : VideoCell) : (storeVideo v s c).cart = s.cart := by
  cases c <;> rfl

theorem storeVideo_frame (v : Byte) (s : State) (c : VideoCell) : storeVideo v s c =
    { s with chrRam := (storeVideo v s c).chrRam, vram := (storeVideo v s c).vram
             ppu := { s.ppu with palette := (storeVideo v s c).ppu.palette } } := by
  cases c <;> rfl

theorem videoByte_storeVideo_same {s : State} (hs : MemoriesWf s) (v : Byte) {c : VideoCell}
    (hc : ∀ k, c ≠ .chrRom k) : videoByte (storeVideo v s c) c = v := by
  obtain ⟨-, -, hchr, hvram, -, hpal, -⟩ := hs
  cases c with
  | chrRom k => exact absurd rfl (hc k)
  | chrRam k => exact Memory.read_write_same' hchr
  | nametable k => exact Memory.read_write_same' hvram
  | palette k => exact Memory.read_write_same' hpal

theorem videoByte_storeVideo_other {s : State} (hs : MemoriesWf s) (v : Byte) {c d : VideoCell} (h : d ≠ c) :
    videoByte (storeVideo v s c) d = videoByte s d := by
  obtain ⟨-, -, hchr, hvram, -, hpal, -⟩ := hs
  cases c with
  | chrRom k => rfl
  | chrRam k =>
    cases d with
    | chrRam j => exact Memory.read_write_other' (fun e => h (congrArg _ e)) hchr
    | _ => rfl
  | nametable k =>
    cases d with
    | nametable j => exact Memory.read_write_other' (fun e => h (congrArg _ e)) hvram
    | _ => rfl
  | palette k =>
    cases d with
    | palette j => exact Memory.read_write_other' (fun e => h (congrArg _ e)) hpal
    | _ => rfl

/-- Only pattern space over CHR ROM is read-only. -/
theorem videoCell_ne_chrRom {c : Cart} {a : Nat} (h : c.chrUnits = 0 ∨ 0x2000 ≤ a % 0x4000) (k : Nat) :
    videoCell c a ≠ .chrRom k := by
  unfold videoCell
  split
  · next hlt => rw [if_pos (by omega)]; exact nofun
  split <;> exact nofun

theorem vread_vwrite_same {a b : Nat} {s : State} (hs : MemoriesWf s) (v : Byte)
    (hcell : videoCell s.cart b = videoCell s.cart a) (ha : s.cart.chrUnits = 0 ∨ 0x2000 ≤ a % 0x4000) :
    vread (vwrite a v s) b = v := by
  rw [vread_eq_videoByte, vwrite_eq_storeVideo, storeVideo_cart, hcell]
  exact videoByte_storeVideo_same hs v (videoCell_ne_chrRom ha)

theorem vread_vwrite_other {a b : Nat} {s : State} (hs : MemoriesWf s) (v : Byte)
    (hcell : videoCell s.cart b ≠ videoCell s.cart a) : vread (vwrite a v s) b = vread s b := by
  rw [vread_eq_videoByte, vwrite_eq_storeVideo, storeVideo_cart, vread_eq_videoByte]
  exact videoByte_storeVideo_other hs v hcell

/-- Addresses of one cell read alike. -/
theorem vread_congr_cell {a b : Nat} {s : State} (h : videoCell s.cart a = videoCell s.cart b) :
    vread s a = vread s b := by
  rw [vread_eq_videoByte, vread_eq_videoByte, h]

/-- Nametable addresses are one cell where the mirroring mode gives their offsets one byte. -/
theorem videoCell_nametable_congr {a b : Nat} {c : Cart} (ha : 0x2000 ≤ a % 0x4000 ∧ a % 0x4000 < 0x3F00)
    (hb : 0x2000 ≤ b % 0x4000 ∧ b % 0x4000 < 0x3F00)
    (h : nametableByte c.mirroring (a % 0x1000) = nametableByte c.mirroring (b % 0x1000)) :
    videoCell c a = videoCell c b := by
  rw [videoCell_nametable ha.1 ha.2, videoCell_nametable hb.1 hb.2, h]

/-- Vertical mirroring: a nametable and the one below it are one (R54). -/
theorem vertical_mirror {c : Cart} (hm : c.mirroring = .vertical) {o : Nat} (ho : o < 0x800) :
    videoCell c (0x2000 + o) = videoCell c (0x2800 + o) := by
  refine videoCell_nametable_congr (by omega) (by omega) ?_
  rw [hm]
  show (0x2000 + o) % 0x1000 % 0x800 = (0x2800 + o) % 0x1000 % 0x800
  omega

/-- Horizontal mirroring: the two nametables of a row are one (R54). -/
theorem horizontal_mirror {c : Cart} (hm : c.mirroring = .horizontal) {n o : Nat} (hn : n = 0x2000 ∨ n = 0x2800)
    (ho : o < 0x400) : videoCell c (n + o) = videoCell c (n + 0x400 + o) := by
  refine videoCell_nametable_congr (by omega) (by omega) ?_
  rw [hm]
  show (n + o) % 0x1000 / 0x800 * 0x400 + (n + o) % 0x1000 % 0x400 =
    (n + 0x400 + o) % 0x1000 / 0x800 * 0x400 + (n + 0x400 + o) % 0x1000 % 0x400
  omega

/-- Palette addresses are one cell where R55 gives them one entry. -/
theorem videoCell_palette_congr {a b : Nat} {c : Cart} (ha : 0x3F00 ≤ a % 0x4000) (hb : 0x3F00 ≤ b % 0x4000)
    (h : a % 32 = b % 32 ∨ a % 4 = 0 ∧ b % 4 = 0) : videoCell c a = videoCell c b := by
  rw [videoCell_palette ha, videoCell_palette hb]
  obtain h | ⟨h1, h2⟩ := h
  · rw [h, show a % 4 = b % 4 by omega]
  · rw [if_pos h1, if_pos h2]

/-! ### The loader -/

/-- The image that the loader takes, by the five conditions of R48. -/
theorem malformed_eq_none_iff (image : List Byte) : malformed image = none ↔
    16 ≤ image.length ∧
    prgOffset image + prgBytes (headerPrgUnits image) + chrBytes (headerChrUnits image) ≤ image.length ∧
    headerMapper image = 0 ∧ headerMagicOk image = true ∧ headerPrgUnits image ≠ 0 := by
  unfold malformed
  split_ifs <;> simp_all

/-- What a loaded cartridge is made of (R46, R47, R54). -/
theorem loadCart_eq_ok {image : List Byte} {c : Cart} (h : loadCart image = .ok c) :
    malformed image = none ∧ c.prgUnits = headerPrgUnits image ∧ c.chrUnits = headerChrUnits image ∧
    c.mirroring = headerMirroring image ∧
    c.prg = Memory.ofBytes (prgBytes c.prgUnits) (image.drop (prgOffset image)) ∧
    c.chr = Memory.ofBytes (chrBytes c.chrUnits) (image.drop (prgOffset image + prgBytes c.prgUnits)) := by
  unfold loadCart at h
  split at h
  · cases h
  · next hm => cases h; exact ⟨hm, rfl, rfl, rfl, rfl, rfl⟩

theorem loadCart_is_ok {image : List Byte} (h : malformed image = none) : ∃ c, loadCart image = .ok c := by
  unfold loadCart
  rw [h]
  exact ⟨_, rfl⟩

/-! ### The video statement, the header's mirroring mode included -/

/-- Settles O42: reads and writes are those of the address's cell, and each mirror is an equality of cells. -/
theorem videoMirrors : Obligations.VideoMirrors := by
  refine ⟨fun o v s hs ho => ⟨?_, fun ho' => ?_⟩, fun o s hm ho => ?_, fun o s hm ho => ⟨?_, ?_⟩,
    fun i j v s hs hi hj => ⟨?_, fun hi4 => ?_⟩, vread_eq_videoByte, fun a b v s hs => ⟨?_, ?_⟩,
    fun a v s ha => ⟨fun hrom => ⟨?_, ?_⟩, fun hram hs => ?_⟩, fun a v s => ⟨_, rfl, ?_⟩, fun image c hc => ?_⟩
  · exact vread_vwrite_same hs v rfl (.inr (by omega))
  · refine vread_vwrite_same hs v (videoCell_nametable_congr (by omega) (by omega) ?_) (.inr (by omega))
    rw [show (0x3000 + o) % 0x1000 = (0x2000 + o) % 0x1000 by omega]
  · exact vread_congr_cell (vertical_mirror hm ho)
  · exact vread_congr_cell (horizontal_mirror hm (.inl rfl) ho)
  · exact vread_congr_cell (horizontal_mirror hm (.inr rfl) ho)
  · exact vread_vwrite_same hs v (videoCell_palette_congr (by omega) (by omega) (.inl (by omega))) (.inr (by omega))
  · exact vread_vwrite_same hs v (videoCell_palette_congr (by omega) (by omega) (.inr (by omega))) (.inr (by omega))
  · exact vread_vwrite_other hs v
  · exact vread_vwrite_same hs v
  · rw [vwrite_eq_storeVideo, videoCell_pattern ha, if_neg hrom]; rfl
  · rw [vread_eq_videoByte, videoCell_pattern ha, if_neg hrom]; rfl
  · exact vread_vwrite_same hs v rfl (.inl hram)
  · rw [vwrite_eq_storeVideo]; exact storeVideo_frame v s _
  · obtain ⟨-, -, -, hmirroring, -, -⟩ := loadCart_eq_ok hc
    exact hmirroring

/-! ### The bytes of a loaded cartridge -/

theorem Memory.read_ofBytes {size k : Nat} (hk : k < size) (bytes : List Byte) :
    Memory.read (Memory.ofBytes size bytes) k = bytes.getD k 0 := by
  have h := Memory.read_cellsFrom (bytes.take size) 0 k
  rw [Nat.zero_add] at h
  rw [Memory.ofBytes, h, List.getD_eq_getElem?_getD, List.getElem?_take_of_lt hk, ← List.getD_eq_getElem?_getD]
  rfl

/-- A memory made from a part of the image that is there reads as the image's bytes (R47). -/
theorem Memory.read_ofBytes_drop {size start k : Nat} {image : List Byte} (hlen : start + size ≤ image.length)
    (hk : k < size) : some (Memory.read (Memory.ofBytes size (image.drop start)) k) = image[start + k]? := by
  have hlt : start + k < image.length := by omega
  rw [Memory.read_ofBytes hk, List.getD_eq_getElem?_getD, List.getElem?_drop, List.getElem?_eq_getElem hlt]
  rfl

section
variable {image : List Byte} {c : Cart} (h : loadCart image = .ok c) {k : Nat}
include h

theorem loadCart_length : prgOffset image + prgBytes c.prgUnits + chrBytes c.chrUnits ≤ image.length := by
  obtain ⟨hm, hprg, hchr, -, -, -⟩ := loadCart_eq_ok h
  obtain ⟨-, hlen, -, -, -⟩ := (malformed_eq_none_iff image).1 hm
  rw [hprg, hchr]
  exact hlen

theorem loadCart_prg (hk : k < prgBytes c.prgUnits) : some (Memory.read c.prg k) = image[prgOffset image + k]? := by
  obtain ⟨-, -, -, -, hprg, -⟩ := loadCart_eq_ok h
  have hlen := loadCart_length h
  rw [hprg]
  exact Memory.read_ofBytes_drop (by omega) hk

theorem loadCart_chr (hk : k < chrBytes c.chrUnits) :
    some (Memory.read c.chr k) = image[prgOffset image + prgBytes c.prgUnits + k]? := by
  obtain ⟨-, -, -, -, -, hchr⟩ := loadCart_eq_ok h
  rw [hchr]
  exact Memory.read_ofBytes_drop (loadCart_length h) hk

end

/-! ### Nothing moves the cartridge -/

/-- A weaker property is left too. -/
theorem Access.Leaves.mono {α : Type} {P Q : State → Prop} {m : Access α} (hm : m.Leaves P) (hPQ : ∀ s, P s → Q s) :
    m.Leaves Q := by
  cases m with
  | ok v s => exact hPQ s hm
  | stop r s => exact hPQ s hm

theorem dmcReader_fixed {s0 s : State} (h : Fixed s0 s) : (dmcReader s).Leaves (Fixed s0) := by
  unfold dmcReader
  split
  · refine (busRead_fixed h _).andThen fun b s' hs' => ?_
    dsimp only
    rw [Access.leaves_ok, State.requestIrqIf_eq]
    exact hs'
  · exact h

theorem frameSequencer_fixed (s : State) : Fixed s (frameSequencer s) := by
  unfold frameSequencer
  dsimp only
  rw [State.requestIrqIf_eq]
  exact ⟨rfl, rfl, rfl, rfl, rfl, rfl, frameSeqStep_apuCycle s.apu⟩

/-- The APU step leaves the cartridge alone, even in a state where its reader would fault. -/
theorem apuStep_cart (s : State) : (apuStep s).Leaves fun t => t.cart = s.cart := by
  have htimers : Fixed s ((frameSequencer s).setApu (channelTimers (frameSequencer s).apu)) :=
    (frameSequencer_fixed s).setApu (channelTimers_apuCycle _)
  exact ((dmcReader_fixed htimers).mono fun _ hfixed => hfixed.1).andThen fun _ _ hcart => hcart

theorem ppuStep_cart (s : State) : (ppuStep s).cart = s.cart := by
  obtain ⟨-, -, hcart, -, -⟩ := ppuStep_rest s
  exact hcart

theorem finishTick_cart (s : State) : (finishTick s).cart = s.cart := by
  have hppu : (ppuStep (ppuStep (ppuStep s))).cart = s.cart := by
    rw [ppuStep_cart, ppuStep_cart, ppuStep_cart]
  unfold finishTick
  generalize ppuStep (ppuStep (ppuStep s)) = u at hppu ⊢
  have hapu := apuStep_cart u
  rw [hppu] at hapu
  cases he : apuStep u with
  | ok v t => rw [he] at hapu; exact hapu
  | stop r t => rw [he] at hapu; exact hapu

theorem afterCpuTick_cart (s : State) : (afterCpuTick s).cart = s.cart := by
  unfold afterCpuTick
  split
  · rfl
  · exact finishTick_cart s

/-- A step that answers a next state is a CPU tick and what follows it (R229). -/
theorem step_eq_next {s t : State} (h : step s = .next t) : ∃ u, cpuTick s = .next u ∧ t = afterCpuTick u := by
  unfold step systemTick at h
  split at h
  · cases h
  split at h
  · next u hu => cases h; exact ⟨u, hu, rfl⟩
  · cases h
  · cases h

/-- A step keeps the cartridge from every state (R47). -/
theorem step_cart {s t : State} (h : step s = .next t) : t.cart = s.cart := by
  obtain ⟨u, hu, rfl⟩ := step_eq_next h
  obtain ⟨hcart, -⟩ := cpuTick_fixed (Fixed.refl s) hu
  exact (afterCpuTick_cart u).trans hcart

theorem resetSequence_cart (s : State) : (resetSequence s).cart = s.cart := by
  simp only [resetSequence, State.putF, State.setApu_cart, State.setPpu_cart, State.setStall_cart, State.setIrq_cart,
    State.setNmi_cart, State.setPc_cart, State.setS_cart, State.setP_cart]

theorem hostAct_cart (h : HostAction) (s : State) : (hostAct h s).cart = s.cart := by
  cases h with
  | reset => exact resetSequence_cart s
  | _ => rfl

/-- Settles O60: the loader copies the image's bytes, and no tick and no host action moves the cartridge. -/
theorem cartridgeRomIsImmutable : Obligations.CartridgeRomIsImmutable := by
  refine ⟨fun image c h => ?_, fun _ _ => step_cart, hostAct_cart⟩
  obtain ⟨-, hprg, hchr, -, -, -⟩ := loadCart_eq_ok h
  exact ⟨hprg, hchr, fun k hk => loadCart_prg h hk, fun k hk => loadCart_chr h hk⟩

/-! ### Construction -/

theorem construct_eq_ok {image : List Byte} {q : Params} {s : State} (h : construct image q = .ok s) :
    ∃ c, loadCart image = .ok c ∧ s = resetSequence (State.powerOn { q with cart := c }) := by
  unfold construct at h
  split at h
  · cases h
  · next c hc => cases h; exact ⟨c, hc, rfl⟩

theorem construct_is_ok_iff (image : List Byte) (q : Params) :
    (∃ s, construct image q = .ok s) ↔ malformed image = none := by
  constructor
  · rintro ⟨s, h⟩
    obtain ⟨c, hc, -⟩ := construct_eq_ok h
    exact (loadCart_eq_ok hc).1
  · intro h
    obtain ⟨c, hc⟩ := loadCart_is_ok h
    unfold construct
    rw [hc]
    exact ⟨_, rfl⟩

theorem and_high_nibble_eq_zero_iff (b : Byte) : b &&& 0xF0 = 0 ↔ b.toNat / 16 = 0 := by
  have hshift : b &&& (0xF0 : Byte) = b >>> 4 <<< 4 :=
    (BitVec.shiftLeft_ushiftRight (x := b) (n := 4)).symm
  rw [hshift, ← BitVec.toNat_inj, BitVec.toNat_shiftLeft, BitVec.toNat_ushiftRight, Nat.shiftRight_eq_div_pow,
    Nat.shiftLeft_eq, Nat.mod_eq_of_lt (by omega)]
  exact Nat.mul_eq_zero.trans (or_iff_left (by decide))

/-- The mapper number is the high nibbles of bytes 6 and 7 (R46). -/
theorem headerMapper_eq_zero_iff (image : List Byte) :
    headerMapper image = 0 ↔ (image.getD 6 0).toNat / 16 = 0 ∧ (image.getD 7 0).toNat / 16 = 0 := by
  have hshift : headerByte image 6 >>> 4 = 0 ↔ (headerByte image 6).toNat / 16 = 0 := by
    rw [← BitVec.toNat_inj, BitVec.toNat_ushiftRight, Nat.shiftRight_eq_div_pow]; rfl
  exact BitVec.or_eq_zero_iff.trans ((and_congr (and_high_nibble_eq_zero_iff _) hshift).trans and_comm)

/-- 4 KB of nametable RAM with four-screen, else 2 KB, by bit 3 of byte 6 (R46, R54). -/
theorem vramSize_headerMirroring (image : List Byte) :
    vramSize (headerMirroring image) = if (image.getD 6 0).getLsbD 3 then 0x1000 else 0x800 := by
  unfold headerMirroring bitOf headerByte
  split_ifs <;> rfl

/-- The CPU after power-on and Reset(): PC from the reset vector, read low byte at 0xFFFC (R35, R233). -/
theorem resetSequence_powerOn_cpu (q : Params) : (resetSequence (State.powerOn q)).cpu =
    { a := 0, x := 0, y := 0, s := 0xFD, p := 0x24, pc := pair (q.cart.readPrg 0xFFFD) (q.cart.readPrg 0xFFFC), stall := 7
      nmiPending := false, irqPending := false, cycle := 0, fault := none } := by
  have hcpu : (State.powerOn q).cpu = Cpu.powerOn := rfl
  have hcart : (State.powerOn q).cart = q.cart := rfl
  have hs : Cpu.powerOn.s - 3 = 0xFD := by decide
  have hp : putFlag .i true Cpu.powerOn.p = 0x24 := by decide
  have hv : resetVector + 1 = 0xFFFD := by decide
  simp only [resetSequence, readVector, State.putF, State.setApu_cpu, State.setPpu_cpu, State.setStall_cpu,
    State.setIrq_cpu, State.setNmi_cpu, State.setPc_cpu, State.setS_cpu, State.setP_cpu, State.setS_cart,
    State.setP_cart, hcpu, hcart, hs, hp, hv]
  rfl

/-- Reset() leaves the power-on APU as it is (R197, R233). -/
theorem resetApu_powerOn : resetApu Apu.powerOn = Apu.powerOn := by decide

/-- A read of PRG ROM space after loading is the image's byte, the ROM repeating (R47, R50). -/
theorem loadCart_readPrg {image : List Byte} {c : Cart} (h : loadCart image = .ok c) (a : Addr) :
    image[prgOffset image + c.prgIndex a]? = some (c.readPrg a) := by
  obtain ⟨hm, hunits, -, -, -, -⟩ := loadCart_eq_ok h
  obtain ⟨-, -, -, -, hprg⟩ := (malformed_eq_none_iff image).1 hm
  have hpos : 0 < prgBytes c.prgUnits := by unfold prgBytes; omega
  exact (loadCart_prg h (Nat.mod_lt _ hpos)).symm

/-- Settles O56: the loader refuses exactly the malformed images, and the constructed state is read field by field. -/
theorem constructionNeedsAWellFormedImage : Obligations.ConstructionNeedsAWellFormedImage := by
  refine ⟨fun image q => ?_, fun image q s h => ?_⟩
  · rw [construct_is_ok_iff, malformed_eq_none_iff, headerMapper_eq_zero_iff, headerMagicOk, beq_iff_eq, and_assoc]
    rfl
  · obtain ⟨c, hc, rfl⟩ := construct_eq_ok h
    obtain ⟨-, hprg, -, hmirroring, -, -⟩ := loadCart_eq_ok hc
    have hsize : prgBytes c.prgUnits = 16384 * (image.getD 4 0).toNat := congrArg prgBytes hprg
    have hread := loadCart_readPrg hc
    unfold Cart.prgIndex at hread
    rw [hsize] at hread
    refine ⟨_, _, c.readPrg 0xFFFC, c.readPrg 0xFFFD, rfl, rfl, fun a ha => ?_, hread 0xFFFC, hread 0xFFFD,
      resetSequence_powerOn_cpu _, rfl, resetApu_powerOn, rfl, rfl, fun k hk => Memory.read_ofBytes hk _, fun k hk => ?_,
      fun k hk => Memory.read_ofBytes hk _, fun k hk => Memory.read_ofBytes hk _, fun k hk => Memory.read_ofBytes hk _,
      fun _ k hk => Memory.read_ofBytes hk _⟩
    · exact (peek_of_cell (storedCell_prgRom ha _)).trans (hread a).symm
    · rw [← vramSize_headerMirroring, ← hmirroring] at hk
      exact Memory.read_ofBytes hk _

end Sys2Proof.Machine
end

section
/-! PROOFS. Family 30_encoding.md: the decoder and the encoder are inverse (R67, R68, R88–R90), the fetch reads what the
decoder decodes (R69), and the addresses the operand resolvers compute (R75–R82, R86). -/

namespace Sys2Proof

/-! ### The decoder, by the kind of table entry -/

section
variable {op : Byte}

theorem decode_of_invalid (h : opForm op = none) (rest : List Byte) : decode (op :: rest) = none := by
  simp only [decode, h]

theorem decode_of_none {i : Instr} (h : opForm op = some (.none i)) (rest : List Byte) :
    decode (op :: rest) = some (i, rest) := by
  simp only [decode, h]

theorem decode_of_immediate {mk : Byte → Instr} (h : opForm op = some (.immediate mk)) (b : Byte) (rest : List Byte) :
    decode (op :: b :: rest) = some (mk b, rest) := by
  simp only [decode, h]

theorem decode_of_byte {mk : Byte → Instr} (h : opForm op = some (.byte mk)) (b : Byte) (rest : List Byte) :
    decode (op :: b :: rest) = some (mk b, rest) := by
  simp only [decode, h]

theorem decode_of_word {mk : Addr → Instr} (h : opForm op = some (.word mk)) (lo hi : Byte) (rest : List Byte) :
    decode (op :: lo :: hi :: rest) = some (mk (pair hi lo), rest) := by
  simp only [decode, h]

end

/-- An entry that makes `i` decodes the bytes of `i`, whatever follows them. -/
theorem decode_of_makes {op : Byte} {f : OpForm} {i : Instr} (h : opForm op = some f) (hf : f.Makes i)
    (rest : List Byte) : decode (op :: (i.operand.bytes ++ rest)) = some (i, rest) := by
  cases f with
  | none j =>
    obtain ⟨rfl, hbytes⟩ := hf
    rw [hbytes]
    exact decode_of_none h rest
  | immediate mk =>
    obtain ⟨b, rfl, hbytes⟩ := hf
    rw [hbytes]
    exact decode_of_immediate h b rest
  | byte mk =>
    obtain ⟨b, rfl, hbytes⟩ := hf
    rw [hbytes]
    exact decode_of_byte h b rest
  | word mk =>
    obtain ⟨a, rfl, hbytes⟩ := hf
    rw [hbytes]
    exact (decode_of_word h (lowByte a) (highByte a) rest).trans (by rw [pair_high_low])

theorem decode_encode (i : Instr) (rest : List Byte) : decode (encode i ++ rest) = some (i, rest) :=
  decode_of_makes (opForm_eq_form i) (form_makes i) rest

/-- Settles O1: the table entry of an instruction's opcode makes it from its operand bytes. -/
theorem decodeReadsEncodedInstruction : Obligations.DecodeReadsEncodedInstruction := decode_encode

/-! ### The bytes of an entry's instructions are encodings -/

theorem encode_eq_cons {op : Byte} {i : Instr} {operands : List Byte}
    (h : i.opcode = op ∧ i.operand.bytes = operands) : encode i = op :: operands := by
  rw [encode, h.1, h.2]

/-- A word entry puts the two bytes it was made from back, low first (R67). -/
theorem encode_of_word {op : Byte} {mk : Addr → Instr} (h : opForm op = some (.word mk)) (lo hi : Byte) :
    encode (mk (pair hi lo)) = [op, lo, hi] := by
  rw [encode_eq_cons (opForm_has h (pair hi lo)), lowByte_pair, highByte_pair]

/-- What is decoded is the encoding of the answer, followed by the rest. -/
theorem eq_encode_of_decode {bytes : List Byte} {i : Instr} {rest : List Byte} (h : decode bytes = some (i, rest)) :
    bytes = encode i ++ rest := by
  unfold decode at h
  split at h
  · cases h
  split at h
  · cases h
  · next hop => cases h; rw [encode_eq_cons (opForm_has hop)]; rfl
  · next hop =>
    split at h <;> cases h
    rw [encode_eq_cons (opForm_has hop _)]; rfl
  · next hop =>
    split at h <;> cases h
    rw [encode_eq_cons (opForm_has hop _)]; rfl
  · next hop =>
    split at h <;> cases h
    rw [encode_of_word hop]; rfl

/-! ### Lengths -/

/-- The number of bytes of an entry's instructions, the opcode included (R74–R85). -/
def OpForm.size : OpForm → Nat
  | .none _ => 1
  | .immediate _ => 2
  | .byte _ => 2
  | .word _ => 3

theorem OpForm.Makes.length_eq {f : OpForm} {i : Instr} (h : f.Makes i) : i.length = f.size := by
  rw [Instr.length, encode, List.length_cons]
  cases f with
  | none j => obtain ⟨-, hbytes⟩ := h; rw [hbytes]; rfl
  | immediate mk | byte mk | word mk => obtain ⟨_, -, hbytes⟩ := h; rw [hbytes]; rfl

theorem OpForm.size_bounds (f : OpForm) : 1 ≤ f.size ∧ f.size ≤ 3 := by
  cases f <;> simp [OpForm.size]

set_option maxRecDepth 4000 in
theorem opcodeLength_table : ∀ n : Fin 256,
    (opForm (BitVec.ofNat 8 n)).all (fun f => opcodeLength (BitVec.ofNat 8 n) == f.size) = true := by decide

/-- The bytes column of R88 is what the opcode's nibbles select. -/
theorem opcodeLength_eq_size {op : Byte} {f : OpForm} (h : opForm op = some f) : opcodeLength op = f.size := by
  have htable := opcodeLength_table ⟨op.toNat, op.isLt⟩
  rw [BitVec.ofNat_toNat, BitVec.setWidth_eq, h] at htable
  exact beq_iff_eq.1 htable

theorem length_eq_opcodeLength (i : Instr) : i.length = opcodeLength i.opcode :=
  (form_makes i).length_eq.trans (opcodeLength_eq_size (opForm_eq_form i)).symm

/-! ### Well-formed byte strings -/

theorem opForm_of_valid {op : Byte} (h : op.toNat ∉ invalidOpcodes) : ∃ f, opForm op = some f :=
  Option.ne_none_iff_exists'.1 (mt (opForm_eq_none_iff op).1 h)

theorem opcodePopulated_iff (op : Byte) : opcodePopulated op = true ↔ op.toNat ∉ invalidOpcodes := by
  simp [opcodePopulated]

/-- An opcode with as many operand bytes as its entry takes is an encoding. -/
theorem exists_encode_of_size {op : Byte} {f : OpForm} {operands : List Byte} (h : opForm op = some f)
    (hsize : 1 + operands.length = f.size) : ∃ i, op :: operands = encode i := by
  have hhas := opForm_has h
  cases f with
  | none i =>
    obtain rfl : operands = [] := List.length_eq_zero_iff.1 (Nat.add_left_cancel hsize)
    exact ⟨i, (encode_eq_cons hhas).symm⟩
  | immediate mk | byte mk =>
    obtain ⟨b, rfl⟩ := List.length_eq_one_iff.1 (Nat.add_left_cancel hsize)
    exact ⟨mk b, (encode_eq_cons (hhas b)).symm⟩
  | word mk =>
    obtain ⟨lo, hi, rfl⟩ := List.length_eq_two.1 (Nat.add_left_cancel hsize)
    exact ⟨mk (pair hi lo), (encode_of_word h lo hi).symm⟩

theorem opcode_valid (i : Instr) : i.opcode.toNat ∉ invalidOpcodes := by
  rw [← opForm_eq_none_iff, opForm_eq_form]
  exact nofun

theorem wellFormedBytes_encode (i : Instr) : wellFormedBytes (encode i) = true := by
  have hlen : 1 + i.operand.bytes.length = opcodeLength i.opcode :=
    (Nat.add_comm ..).trans (length_eq_opcodeLength i)
  rw [encode, wellFormedBytes, (opcodePopulated_iff _).2 (opcode_valid i), hlen]
  simp

theorem wellFormedBytes_iff (bytes : List Byte) : wellFormedBytes bytes = true ↔ ∃ i, bytes = encode i := by
  constructor
  · intro h
    cases bytes with
    | nil => cases h
    | cons op operands =>
      rw [wellFormedBytes, Bool.and_eq_true, opcodePopulated_iff, decide_eq_true_eq] at h
      obtain ⟨f, hf⟩ := opForm_of_valid h.1
      exact exists_encode_of_size hf (h.2.trans (opcodeLength_eq_size hf))
  · rintro ⟨i, rfl⟩
    exact wellFormedBytes_encode i

/-- Settles O2: each entry's instructions carry its opcode and give their operand bytes back. -/
theorem decodedBytesAreTheEncoding : Obligations.DecodedBytesAreTheEncoding := by
  refine ⟨fun _ _ _ => eq_encode_of_decode, wellFormedBytes_iff, fun i => ⟨length_eq_opcodeLength i, ?_⟩⟩
  rw [(form_makes i).length_eq]
  exact i.form.size_bounds

/-! ### The invalid opcodes -/

/-- R90 lists the bytes in increasing order. -/
theorem invalidOpcodes_nodup : invalidOpcodes.Nodup := by
  have hchain : invalidOpcodes.IsChain (· < ·) := by simp [invalidOpcodes]
  exact hchain.pairwise.imp Nat.ne_of_lt

/-- A populated opcode with two bytes after it decodes: no entry takes more. -/
theorem decode_of_valid {op : Byte} (h : op.toNat ∉ invalidOpcodes) (a b : Byte) :
    ∃ i rest, decode [op, a, b] = some (i, rest) := by
  obtain ⟨f, hf⟩ := opForm_of_valid h
  cases f with
  | none i => exact ⟨_, _, decode_of_none hf _⟩
  | immediate mk => exact ⟨_, _, decode_of_immediate hf a _⟩
  | byte mk => exact ⟨_, _, decode_of_byte hf a _⟩
  | word mk => exact ⟨_, _, decode_of_word hf a b _⟩

/-! ### Opcode-table words -/

theorem decodeTableWord_of_encode {nbits w : Nat} {i : Instr} (rest : List Byte)
    (h : tableWordBytes nbits w = encode i ++ rest) : decodeTableWord nbits w = some i := by
  rw [decodeTableWord, h, decode_encode]

/-- Settles O4: each word's bytes are the instruction's encoding, then zeros. -/
theorem sampleWordsDecode : Obligations.SampleWordsDecode :=
  ⟨decodeTableWord_of_encode [0] rfl, decodeTableWord_of_encode [] rfl, decodeTableWord_of_encode [] rfl,
    decodeTableWord_of_encode [0] rfl, decodeTableWord_of_encode [0] rfl, decodeTableWord_of_encode [0] rfl,
    decodeTableWord_of_encode [0, 0] rfl, decodeTableWord_of_encode [0, 0] rfl,
    decodeTableWord_of_encode [0, 0] rfl, decodeTableWord_of_encode [0] rfl⟩

end Sys2Proof

namespace Sys2Proof.Machine

/-! ### The fetch -/

/-- A fetch of an invalid opcode stops with PC past it, before any operand byte is read (R90). -/
theorem fetch_of_invalid {s t : State} {op : Byte} (hread : busRead s.cpu.pc s = .ok op t) (h : opForm op = none) :
    fetch s = .stop (.invalidOpcode op s.cpu.pc) (t.setPc (s.cpu.pc + 1)) := by
  simp only [fetch, hread, Access.andThen_ok, h]

theorem State.setPc_setPc (a b : Addr) (s : State) : (s.setPc a).setPc b = s.setPc b := rfl

/-- A storage byte reads the same wherever PC is. -/
theorem busRead_setPc {a : Addr} {v : Byte} {s : State} (h : peek a s = some v) (pc : Addr) :
    busRead a (s.setPc pc) = .ok v (s.setPc pc) :=
  busRead_storage ((peek_setPc a pc s).trans h)

/-- The bytes of an instruction in storage at PC: the fetch reads them and moves PC past them, and nothing else (R69). -/
theorem fetch_of_stored {i : Instr} {s : State} (h : StoredAt s.cpu.pc (encode i) s) :
    fetch s = .ok i (s.setPc (s.cpu.pc + BitVec.ofNat 16 i.length)) := by
  obtain ⟨hop, hoperands⟩ := h
  have hmakes := form_makes i
  have hlen := hmakes.length_eq
  have hpc2 : s.cpu.pc + 1 + 1 = s.cpu.pc + 2 := BitVec.add_assoc ..
  simp only [fetch, busRead_storage hop, Access.andThen_ok, opForm_eq_form, hlen]
  generalize i.form = f at hmakes
  cases f with
  | none j =>
    obtain ⟨rfl, -⟩ := hmakes
    rfl
  | immediate mk =>
    obtain ⟨b, rfl, hbytes⟩ := hmakes
    rw [hbytes] at hoperands
    obtain ⟨hb, -⟩ := hoperands
    simp only [State.setPc_setPc, busRead_setPc hb, Access.andThen_ok]
    rfl
  | byte mk =>
    obtain ⟨b, rfl, hbytes⟩ := hmakes
    rw [hbytes] at hoperands
    obtain ⟨hb, -⟩ := hoperands
    simp only [busRead_setPc hb, Access.andThen_ok]
    rfl
  | word mk =>
    obtain ⟨a, rfl, hbytes⟩ := hmakes
    rw [hbytes] at hoperands
    obtain ⟨hlo, hhi, -⟩ := hoperands
    rw [hpc2] at hhi
    simp only [busRead_setPc hlo, busRead_setPc hhi, Access.andThen_ok, pair_high_low]
    rfl

/-- Settles O3: the empty table entries are R90's bytes, and the fetch stops at one before any other read. -/
theorem invalidOpcodesAreRefused : Obligations.InvalidOpcodesAreRefused := by
  refine ⟨rfl, invalidOpcodes_nodup, fun op rest h => ?_, fun op a b h => decode_of_valid h a b,
    fun op s t h hs hread => ?_⟩
  · exact decode_of_invalid ((opForm_eq_none_iff op).2 h) rest
  · have hfetch := fetch_of_invalid hread ((opForm_eq_none_iff op).2 h)
    have htick : cpuTick s = .next (raiseFault (.invalidOpcode op s.cpu.pc) (t.setPc (s.cpu.pc + 1))) := by
      rw [cpuTick_atInstruction hs, executeOne, hfetch]
    rw [step_of_faulting_tick hs.1 htick rfl, ← (busRead_effect hread).cpu]
    rfl

/-- Settles O5: at a boundary the CPU tick is the fetch, which reads the stored bytes, then exec. -/
theorem stepRunsDecodedInstruction : Obligations.StepRunsDecodedInstruction := by
  intro i s hs hstored
  have htick : cpuTick s = exec i (s.setPc (s.cpu.pc + BitVec.ofNat 16 i.length)) := by
    rw [cpuTick_atInstruction hs, executeOne, fetch_of_stored hstored]
  rw [step, hs.1, ← htick]
  rfl

/-! ### Addresses as numbers -/

theorem toNat_zext16 (b : Byte) : (zext16 b).toNat = b.toNat :=
  BitVec.toNat_setWidth_of_le (by decide)

theorem toNat_highByte (a : Addr) : (highByte a).toNat = a.toNat / 256 := by
  rw [highByte, BitVec.extractLsb'_toNat, Nat.shiftRight_eq_div_pow]
  exact Nat.mod_eq_of_lt (by omega)

/-- Two addresses are in different pages when their quotients by 256 differ (R18). -/
theorem pagesDiffer_eq_decide (a b : Addr) : pagesDiffer a b = decide (a.toNat / 256 ≠ b.toNat / 256) := by
  rw [pagesDiffer, bne, beq_eq_decide, ← decide_not, ← toNat_highByte, ← toNat_highByte]
  exact decide_eq_decide.2 (not_congr BitVec.toNat_inj.symm)

theorem toNat_add_zext16 (a : Addr) (b : Byte) : (a + zext16 b).toNat = (a.toNat + b.toNat) % 65536 := by
  rw [BitVec.toNat_add, toNat_zext16]

/-- The page test of an indexed address (R79, R80, R82). -/
theorem indexed_eq (a : Addr) (b : Byte) :
    indexed a b = ⟨.mem (a + zext16 b), decide (a.toNat / 256 ≠ (a + zext16 b).toNat / 256)⟩ := by
  rw [← pagesDiffer_eq_decide]
  rfl

theorem zeroPageByte_eq_read (b : Byte) (s : State) : zeroPageByte b s = Memory.read s.ram b.toNat := by
  rw [zeroPageByte, ramByte, ramIndex, toNat_zext16, Nat.mod_eq_of_lt (by omega)]

/-- The pointer's bytes, the high one at the next zero-page address modulo 256 (R81, R82). -/
theorem toNat_zeroPagePointer (b : Byte) (s : State) : (zeroPagePointer b s).toNat =
    (Memory.read s.ram b.toNat).toNat + 256 * (Memory.read s.ram ((b.toNat + 1) % 256)).toNat := by
  rw [zeroPagePointer, toNat_pair, zeroPageByte_eq_read, zeroPageByte_eq_read, BitVec.toNat_add, Nat.mul_comm,
    Nat.add_comm]
  rfl

/-- Settles O14: each resolver's address and page flag, read as numbers. -/
theorem operandsResolve : Obligations.OperandsResolve := by
  intro b a s
  refine ⟨⟨_, rfl, toNat_zext16 b⟩, ⟨_, rfl, ?_⟩, ⟨_, rfl, ?_⟩, rfl, ⟨_, indexed_eq a _, toNat_add_zext16 a _⟩,
    ⟨_, indexed_eq a _, toNat_add_zext16 a _⟩, ⟨_, rfl, ?_⟩,
    ⟨_, _, indexed_eq _ _, toNat_zeroPagePointer b s, toNat_add_zext16 _ _⟩⟩
  · rw [toNat_zext16, BitVec.toNat_add]
  · rw [toNat_zext16, BitVec.toNat_add]
  · rw [toNat_zeroPagePointer, BitVec.toNat_add, Nat.mod_add_mod]

end Sys2Proof.Machine
end

section
/-! PROOFS. Family 40_load_store.md: the load and store instructions (R95–R100). -/

namespace Sys2Proof.Machine

/-! ### Loads -/

/-- The meaning of an instruction whose mnemonic is known. -/
theorem exec_of_mnemonic {i : Instr} {m : Mnemonic} (hm : i.mnemonic = m) (s : State) :
    exec i s = meaningOf m i.operand i.baseCycles s :=
  hm ▸ exec_eq_meaning i s

theorem baseCycles_pos (i : Instr) : 0 < i.baseCycles := by
  cases i <;> exact Nat.succ_pos _

/-- An instruction that is a read of its operand and then a function of the CPU's registers, on a readable operand. -/
theorem readsThen_of_readInstr {i : Instr} {s : State} {use : Byte → State → State} {effect : Byte → Cpu → Cpu}
    (hexec : exec i s = readInstr i.operand i.baseCycles use s) (huse : ∀ v t, use v t = t.mapCpu (effect v))
    (hstall : ∀ v c, (effect v c).stall = c.stall) (h : Readable i.operand s) : ReadsThen i effect s := by
  obtain ⟨v, t, hload, heffect, hnext⟩ := readInstr_next (base := i.baseCycles) (use := use) h
  have hcycles : i.baseCycles + pagePenalty i.operand s - 1 = restCycles i s :=
    Nat.sub_add_comm (baseCycles_pos i)
  have hcpu : (use v t).cpu = effect v s.cpu := by rw [huse, ← heffect.cpu]; rfl
  refine ⟨v, t, hload, heffect, ?_⟩
  rw [hexec, hnext, hcycles, hcpu, hstall, State.setStall, hcpu, huse]
  rfl

/-- Settles O16: each load is a read whose byte goes to its register and to Z and N. -/
theorem loadsComplete : Obligations.LoadsComplete := by
  intro i s h
  refine ⟨fun hm => ?_, fun hm => ?_, fun hm => ?_⟩
  · exact readsThen_of_readInstr (exec_of_mnemonic hm s) (fun _ _ => rfl) (fun _ _ => rfl) h
  · exact readsThen_of_readInstr (exec_of_mnemonic hm s) (fun _ _ => rfl) (fun _ _ => rfl) h
  · exact readsThen_of_readInstr (exec_of_mnemonic hm s) (fun _ _ => rfl) (fun _ _ => rfl) h

/-! ### Stores -/

/-- Every operand form that R88 gives a store is an address: none is immediate, the accumulator or implied. -/
theorem store_place_mem {i : Instr} (hi : i.mnemonic ∈ [Mnemonic.sta, .stx, .sty]) (s : State) :
    ∃ a, (resolve i.operand s).place = .mem a := by
  cases i
  case staIndX | staZp | staAbs | staIndY | staZpX | staAbsY | staAbsX => exact ⟨_, rfl⟩
  case stxZp | stxAbs | stxZpY => exact ⟨_, rfl⟩
  case styZp | styAbs | styZpX => exact ⟨_, rfl⟩
  all_goals simp [Instr.mnemonic, Instr.row] at hi

/-- An instruction that is a store of `v`, at an address `v` may be written to. -/
theorem storesByte_of_writeInstr {i : Instr} {s : State} {v : Byte} (hs : MemoriesWf s)
    (hexec : exec i s = writeInstr i.operand i.baseCycles v s) (hi : i.mnemonic ∈ [Mnemonic.sta, .stx, .sty])
    (hw : ∀ a, (resolve i.operand s).place = .mem a → Writable a v) : StoresByte i v s := by
  obtain ⟨a, hplace⟩ := store_place_mem hi s
  obtain ⟨t, hwrite, hnext⟩ := writeInstr_next (base := i.baseCycles) hplace (hw a hplace)
  exact ⟨a, t, hplace, hwrite, hexec.trans hnext, (busWrite_side hwrite).1, busWrite_only_cell hs hwrite⟩

/-- Settles O17: each store is one bus write of its register. -/
theorem storesComplete : Obligations.StoresComplete := by
  intro i s hs
  refine ⟨fun hm hw => ?_, fun hm hw => ?_, fun hm hw => ?_⟩
  · exact storesByte_of_writeInstr hs (exec_of_mnemonic hm s) (by simp [hm]) hw
  · exact storesByte_of_writeInstr hs (exec_of_mnemonic hm s) (by simp [hm]) hw
  · exact storesByte_of_writeInstr hs (exec_of_mnemonic hm s) (by simp [hm]) hw

end Sys2Proof.Machine
end

section
/-! PROOFS. Family 41_transfer_stack.md: the transfers, register steps and accumulator shifts (R102–R107, R126–R134) and the
stack instructions (R108–R111). -/

namespace Sys2Proof.Machine

/-! ### Instructions that change only the CPU's registers -/

/-- An instruction without an operand access whose operation replaces the CPU's registers and leaves `stall` to the cycle
count. -/
theorem onlyCpu_of_impliedInstr {i : Instr} {s : State} {f : State → State} {c : Cpu}
    (hexec : exec i s = impliedInstr i.baseCycles f s) (hf : f s = { s with cpu := c })
    (hstall : c.stall = s.cpu.stall) : OnlyCpu i c s := by
  rw [OnlyCpu, hexec, impliedInstr_eq, hf, hstall]
  rfl

/-- A read-modify-write of A: the result, the carry, then Z and N of the result. -/
theorem onlyCpu_of_rmwAcc {i : Instr} {s : State} {f : Byte → Bool → RmwOut}
    (hexec : exec i s = rmwInstr .acc i.baseCycles f s) :
    OnlyCpu i { s.cpu with a := (f s.cpu.a (getFlag .c s.cpu.p)).value
                           p := setZN (f s.cpu.a (getFlag .c s.cpu.p)).value
                             (rmwCarry (f s.cpu.a (getFlag .c s.cpu.p)) s.cpu.p) } s :=
  hexec

/-- Settles O20: the transfers and register steps are operations on the CPU's registers, the shifts read-modify-writes of A. -/
theorem registerInstructionsComplete : Obligations.RegisterInstructionsComplete := fun s =>
  ⟨onlyCpu_of_impliedInstr (exec_eq_meaning .tax s) rfl rfl,
   onlyCpu_of_impliedInstr (exec_eq_meaning .tay s) rfl rfl,
   onlyCpu_of_impliedInstr (exec_eq_meaning .txa s) rfl rfl,
   onlyCpu_of_impliedInstr (exec_eq_meaning .tya s) rfl rfl,
   onlyCpu_of_impliedInstr (exec_eq_meaning .tsx s) rfl rfl,
   onlyCpu_of_impliedInstr (exec_eq_meaning .txs s) rfl rfl,
   onlyCpu_of_impliedInstr (exec_eq_meaning .inx s) rfl rfl,
   onlyCpu_of_impliedInstr (exec_eq_meaning .iny s) rfl rfl,
   onlyCpu_of_impliedInstr (exec_eq_meaning .dex s) rfl rfl,
   onlyCpu_of_impliedInstr (exec_eq_meaning .dey s) rfl rfl,
   onlyCpu_of_rmwAcc (exec_eq_meaning .aslAcc s),
   onlyCpu_of_rmwAcc (exec_eq_meaning .lsrAcc s),
   onlyCpu_of_rmwAcc (exec_eq_meaning .rolAcc s),
   onlyCpu_of_rmwAcc (exec_eq_meaning .rorAcc s)⟩

/-! ### Pushes -/

theorem stackByte_push {s : State} (hs : MemoriesWf s) (v : Byte) : stackByte s.cpu.s (push v s) = v := by
  rw [push_eq]
  exact Memory.read_write_same' hs.1

theorem read_push_other {s : State} (hs : MemoriesWf s) (v : Byte) {k : Nat} (hk : k ≠ 0x100 + s.cpu.s.toNat) :
    Memory.read (push v s).ram k = Memory.read s.ram k := by
  rw [push_eq]
  exact Memory.read_write_other' hk hs.1

/-- What a push leaves unchanged: all but RAM and S. -/
theorem push_frame (v : Byte) (s : State) :
    push v s = { s with ram := (push v s).ram, cpu := { s.cpu with s := s.cpu.s - 1 } } := rfl

/-- An instruction that only pushes a byte. -/
theorem pushes_of_impliedInstr {i : Instr} {s : State} {f : State → State} {v : Byte} {base : Nat} (hs : MemoriesWf s)
    (hexec : exec i s = impliedInstr base f s) (hf : f s = push v s) :
    ∃ t, exec i s = .next t ∧ stackByte s.cpu.s t = v ∧
      (∀ k, k ≠ 0x100 + s.cpu.s.toNat → Memory.read t.ram k = Memory.read s.ram k) ∧
      t = { s with ram := t.ram, cpu := { s.cpu with s := s.cpu.s - 1, stall := s.cpu.stall + (base - 1) } } := by
  refine ⟨(push v s).setStall (s.cpu.stall + (base - 1)), ?_, stackByte_push hs v, fun _ => read_push_other hs v, ?_⟩
  · rw [hexec, impliedInstr_eq, hf, push_frame]
  · rw [push_frame, State.setStall]

/-- PHP's byte is P with bits 5 and 4 set (R109). -/
theorem phpByte_eq (p : Byte) : phpByte p = p ||| 0x30 :=
  BitVec.or_assoc p 0x20 0x30

/-- Settles O21: each instruction is a push of its byte. -/
theorem pushesComplete : Obligations.PushesComplete := by
  intro s hs
  refine ⟨pushes_of_impliedInstr hs (exec_eq_meaning .pha s) rfl, ?_⟩
  rw [← phpByte_eq]
  exact pushes_of_impliedInstr hs (exec_eq_meaning .php s) rfl

/-! ### Pulls -/

/-- Every bit of the P a pulled byte makes (R111, R150). -/
theorem pulledStatus_bit (v : Byte) {k : Nat} (hk : k < 8) :
    (pulledStatus v).getLsbD k = if k = 4 then false else if k = 5 then true else v.getLsbD k := by
  unfold pulledStatus
  interval_cases k <;> simp

/-- Settles O22: each pull reads the stack byte above S; PLA loads A with it, PLP makes P of it. -/
theorem pullsComplete : Obligations.PullsComplete := by
  refine ⟨fun s => ?_, fun s => ⟨pulledStatus (pulled s), ?_, fun k hk => ?_⟩⟩
  · rw [← pulled_eq]
    exact onlyCpu_of_impliedInstr (f := fun s => loadRegister State.setA (pulled s) (afterPull s))
      (exec_eq_meaning .pla s) rfl rfl
  · exact onlyCpu_of_impliedInstr (f := fun s => (afterPull s).setP (pulledStatus (pulled s)))
      (exec_eq_meaning .plp s) rfl rfl
  · rw [← pulled_eq]
    exact pulledStatus_bit _ hk

end Sys2Proof.Machine
end

section
/-! PROOFS. Family 42_arithmetic_logic.md: ADC and SBC (R114, R115), AND, ORA and EOR (R116–R118), BIT (R119) and the
compares (R120–R122). -/

namespace Sys2Proof.Machine

/-! ### The sum and the flags of ADC and SBC -/

/-- The nine-bit sum of two bytes and a carry does not wrap. -/
theorem toNat_add_add_carry (a m : Byte) (c : Bool) :
    (a.setWidth 9 + m.setWidth 9 + (if c then 1 else 0) : BitVec 9).toNat = a.toNat + m.toNat + c.toNat := by
  have hc : (if c then 1 else 0 : BitVec 9).toNat = c.toNat := by cases c <;> rfl
  have hle : c.toNat ≤ 1 := c.toNat_le
  simp only [BitVec.toNat_add, BitVec.toNat_setWidth, hc]
  omega

theorem toNat_bitByte (c : Bool) : (bitByte c).toNat = c.toNat := by
  cases c <;> rfl

theorem adcOf_value_toNat (a m : Byte) (c : Bool) :
    (adcOf a m c).value.toNat = (a.toNat + m.toNat + c.toNat) % 256 := by
  rw [adcOf, BitVec.toNat_setWidth, toNat_add_add_carry]

theorem adcOf_carry (a m : Byte) (c : Bool) :
    (adcOf a m c).carry = decide (256 ≤ a.toNat + m.toNat + c.toNat) := by
  rw [← toNat_add_add_carry]
  exact (BitVec.msb_eq_getLsbD_last _).symm.trans (BitVec.msb_eq_decide _)

theorem adcOf_value (a m : Byte) (c : Bool) : (adcOf a m c).value = a + m + bitByte c := by
  apply BitVec.eq_of_toNat_eq
  rw [adcOf_value_toNat, BitVec.toNat_add, BitVec.toNat_add, Nat.mod_add_mod, toNat_bitByte]

theorem outOfSignedByte_eq (n : Int) : outOfSignedByte n = decide (n < -128 ∨ 127 < n) :=
  (Bool.decide_or _ _).symm

theorem adcOf_overflow (a m : Byte) (c : Bool) : (adcOf a m c).overflow =
    decide (a.toInt + m.toInt + c.toNat < -128 ∨ 127 < a.toInt + m.toInt + c.toNat) := by
  rw [← outOfSignedByte_eq]
  cases c <;> rfl

/-- SBC's result and carry are ADC's with the operand complemented (R115). -/
theorem sbcOf_eq_adcOf_complement (a m : Byte) (c : Bool) :
    (sbcOf a m c).value = (adcOf a (~~~m) c).value ∧ (sbcOf a m c).carry = (adcOf a (~~~m) c).carry :=
  ⟨rfl, rfl⟩

theorem sbcOf_value_toNat (a m : Byte) (c : Bool) :
    ((sbcOf a m c).value.toNat : Int) = ((a.toNat : Int) - m.toNat - (1 - c.toNat)) % 256 := by
  rw [(sbcOf_eq_adcOf_complement a m c).1, adcOf_value_toNat, BitVec.toNat_not]
  omega

/-- The carry is the complement of the borrow. -/
theorem sbcOf_carry (a m : Byte) (c : Bool) :
    (sbcOf a m c).carry = decide (m.toNat + (1 - c.toNat) ≤ a.toNat) := by
  have hle : c.toNat ≤ 1 := c.toNat_le
  rw [(sbcOf_eq_adcOf_complement a m c).2, adcOf_carry, BitVec.toNat_not, decide_eq_decide]
  omega

theorem sbcOf_overflow (a m : Byte) (c : Bool) : (sbcOf a m c).overflow =
    decide (a.toInt - m.toInt - (1 - c.toNat) < -128 ∨ 127 < a.toInt - m.toInt - (1 - c.toNat)) := by
  rw [← outOfSignedByte_eq]
  cases c <;> rfl

/-- The flags of P after ADC or SBC, and the bits that are kept (R112, R114, R115). -/
theorem aluStatus_flags (o : AluOut) (p : Byte) :
    getFlag .c (aluStatus o p) = o.carry ∧ getFlag .v (aluStatus o p) = o.overflow ∧
    getFlag .z (aluStatus o p) = decide (o.value = 0) ∧ getFlag .n (aluStatus o p) = o.value.getLsbD 7 ∧
    ∀ k ∈ [2, 3, 4, 5], (aluStatus o p).getLsbD k = p.getLsbD k := by
  unfold aluStatus setZN
  refine ⟨?_, ?_, ?_, getFlag_putFlag_same _ _ _, fun k hk => ?_⟩
  · rw [getFlag_putFlag_other (by decide), getFlag_putFlag_other (by decide), getFlag_putFlag_other (by decide),
      getFlag_putFlag_same]
  · rw [getFlag_putFlag_other (by decide), getFlag_putFlag_other (by decide), getFlag_putFlag_same]
  · rw [getFlag_putFlag_other (by decide), getFlag_putFlag_same, beq_eq_decide]
  · have hk8 : k < 8 := by revert k; decide
    have hother : ∀ f ∈ [Flag.c, .v, .z, .n], k ≠ flagBit f := by revert k; decide
    simp only [putFlag_bit _ _ _ _ hk8]
    rw [if_neg (hother .n (by decide)), if_neg (hother .z (by decide)), if_neg (hother .v (by decide)),
      if_neg (hother .c (by decide))]

/-! ### ADC and SBC -/

/-- What `aluStep` does to the CPU's registers. -/
def aluCpu (f : Byte → Byte → Bool → AluOut) (m : Byte) (c : Cpu) : Cpu :=
  { c with a := (f c.a m (getFlag .c c.p)).value, p := aluStatus (f c.a m (getFlag .c c.p)) c.p }

theorem aluStep_eq_mapCpu (f : Byte → Byte → Bool → AluOut) (m : Byte) (s : State) :
    aluStep f m s = s.mapCpu (aluCpu f m) := rfl

/-- Settles O23: ADC is a read of its operand and then the nine-bit sum. -/
theorem adcComputes : Obligations.AdcComputes := by
  refine ⟨fun _ _ => rfl, fun i s hm h => ?_, fun i s a hm hp hd => ?_⟩
  · obtain ⟨m, t, hload, heffect, hexec⟩ :=
      readsThen_of_readInstr (exec_of_mnemonic hm s) (aluStep_eq_mapCpu adcOf) (fun _ _ => rfl) h
    obtain ⟨hc, hv, hz, hn, hkept⟩ := aluStatus_flags (adcOf s.cpu.a m (getFlag .c s.cpu.p)) s.cpu.p
    refine ⟨m, aluStatus (adcOf s.cpu.a m (getFlag .c s.cpu.p)) s.cpu.p, t, ?_⟩
    rw [← adcOf_value]
    exact ⟨hload, heffect, hexec, adcOf_value_toNat _ _ _, hc.trans (adcOf_carry _ _ _),
      hv.trans (adcOf_overflow _ _ _), hz, hn, hkept⟩
  · exact (exec_of_mnemonic hm s).trans (readInstr_disabled hp hd _)

/-- Settles O24: SBC is a read of its operand and then the nine-bit sum with the operand complemented. -/
theorem sbcComputes : Obligations.SbcComputes := by
  refine ⟨fun _ _ => rfl, fun i s hm h => ?_, fun i s a hm hp hd => ?_⟩
  · obtain ⟨m, t, hload, heffect, hexec⟩ :=
      readsThen_of_readInstr (exec_of_mnemonic hm s) (aluStep_eq_mapCpu sbcOf) (fun _ _ => rfl) h
    obtain ⟨hc, hv, hz, hn, hkept⟩ := aluStatus_flags (sbcOf s.cpu.a m (getFlag .c s.cpu.p)) s.cpu.p
    exact ⟨m, _, _, t, hload, heffect, hexec, sbcOf_value_toNat _ _ _, hc.trans (sbcOf_carry _ _ _),
      hv.trans (sbcOf_overflow _ _ _), hz, hn, hkept⟩
  · exact (exec_of_mnemonic hm s).trans (readInstr_disabled hp hd _)

/-! ### AND, ORA and EOR -/

/-- Settles O26: each is a read whose byte is combined with A, the result going to A and to Z and N. -/
theorem logicComplete : Obligations.LogicComplete := by
  intro i s h
  refine ⟨?_, ?_, ?_⟩ <;>
    exact fun hm => readsThen_of_readInstr (exec_of_mnemonic hm s) (fun _ _ => rfl) (fun _ _ => rfl) h

/-! ### BIT -/

/-- Every bit of P after BIT (R119). -/
theorem bitStatus_bit (a m p : Byte) {k : Nat} (hk : k < 8) :
    (bitStatus a m p).getLsbD k =
      if k = 7 then m.getLsbD 7 else if k = 6 then m.getLsbD 6 else if k = 1 then decide (a &&& m = 0)
      else p.getLsbD k := by
  rw [bitStatus, putFlag_comm (show Flag.v ≠ .n by decide), putFlag_bit _ _ _ _ hk, putFlag_bit _ _ _ _ hk,
    putFlag_bit _ _ _ _ hk, beq_eq_decide]
  rfl

/-- What `bitStep` does to the CPU's registers. -/
def bitCpu (m : Byte) (c : Cpu) : Cpu := { c with p := bitStatus c.a m c.p }

/-- Settles O27: BIT is a read and then three flag writes. -/
theorem bitComplete : Obligations.BitComplete := by
  intro i s hm h
  obtain ⟨m, t, hload, heffect, hexec⟩ :=
    readsThen_of_readInstr (effect := bitCpu) (exec_of_mnemonic hm s) (fun _ _ => rfl) (fun _ _ => rfl) h
  exact ⟨m, _, t, hload, heffect, hexec, fun _ => bitStatus_bit _ _ _⟩

/-! ### CMP, CPX and CPY -/

/-- Every bit of P after a compare (R120–R122). -/
theorem compareStatus_bit (r m p : Byte) {k : Nat} (hk : k < 8) :
    (compareStatus r m p).getLsbD k =
      if k = 0 then decide (m.toNat ≤ r.toNat) else if k = 1 then decide (r = m)
      else if k = 7 then decide (128 ≤ (256 + r.toNat - m.toNat) % 256) else p.getLsbD k := by
  have hdiff : (r - m).toNat = (256 + r.toNat - m.toNat) % 256 := by
    rw [BitVec.toNat_sub, Nat.sub_add_comm m.isLt.le]
  rw [compareStatus, putFlag_comm (show Flag.n ≠ .z by decide), putFlag_comm (show Flag.n ≠ .c by decide),
    putFlag_comm (show Flag.z ≠ .c by decide), putFlag_bit _ _ _ _ hk, putFlag_bit _ _ _ _ hk,
    putFlag_bit _ _ _ _ hk, bitOf_seven, hdiff, beq_eq_decide]
  rfl

/-- What comparing the register `reg` with a byte does to the CPU's registers. -/
def compareCpu (reg : Cpu → Byte) (m : Byte) (c : Cpu) : Cpu := { c with p := compareStatus (reg c) m c.p }

/-- Settles O28: each compare is a read and then three flag writes. -/
theorem comparesComplete : Obligations.ComparesComplete := by
  intro i r s h hr
  have hreads : ∃ reg, r = reg s.cpu ∧ ReadsThen i (compareCpu reg) s := by
    obtain ⟨hm, hr⟩ | ⟨hm, hr⟩ | ⟨hm, hr⟩ := hr
    · exact ⟨Cpu.a, hr, readsThen_of_readInstr (exec_of_mnemonic hm s) (fun _ _ => rfl) (fun _ _ => rfl) h⟩
    · exact ⟨Cpu.x, hr, readsThen_of_readInstr (exec_of_mnemonic hm s) (fun _ _ => rfl) (fun _ _ => rfl) h⟩
    · exact ⟨Cpu.y, hr, readsThen_of_readInstr (exec_of_mnemonic hm s) (fun _ _ => rfl) (fun _ _ => rfl) h⟩
  obtain ⟨reg, rfl, m, t, hload, heffect, hexec⟩ := hreads
  exact ⟨m, _, t, hload, heffect, hexec, fun _ => compareStatus_bit _ _ _⟩

end Sys2Proof.Machine
end

section
/-! PROOFS. Family 43_inc_dec.md: the read-modify-write instructions on memory (R60, R124, R125, R131–R134) and their
computations as numbers. -/

namespace Sys2Proof.Machine

/-! ### The read before the write -/

theorem ReadEffect.memoriesWf {s t : State} (h : ReadEffect s t) (hs : MemoriesWf s) : MemoriesWf t := by
  obtain ⟨_, _, _, _, _, _, _, _, rfl⟩ := h
  exact hs

/-- A read changes no stored byte, so a change after it is a change from the state before it. -/
theorem ReadEffect.sameStorageExcept {a : Addr} {s s1 t : State} (h : ReadEffect s s1)
    (ht : SameStorageExcept a s1 t) : SameStorageExcept a s t := by
  obtain ⟨-, hcart, -⟩ := h.memories
  intro b hb
  rw [← hcart] at hb
  exact (ht b hb).trans (h.storage b)

/-- The OAM-DMA trigger is write-only: its read is an open-bus draw (R40, R43). -/
theorem busRead_dmaTrigger (s : State) : busRead 0x4014 s = .ok (openBusByte s) s.countDraw := rfl

/-- The result computed from the byte read may be written back. -/
theorem Modifiable.writable {i : Instr} {f : Byte → Bool → RmwOut} {s : State} (h : Modifiable i f s) :
    ∃ a v s1, (resolve i.operand s).place = .mem a ∧ busRead a s = .ok v s1 ∧
      Writable a (f v (getFlag .c s.cpu.p)).value := by
  obtain ⟨a, hplace, hd, hdma⟩ := h
  obtain ⟨v, s1, hread⟩ := busRead_enabled hd s
  refine ⟨a, v, s1, hplace, hread, hd, ?_⟩
  rintro ⟨rfl, hpage⟩
  cases (busRead_dmaTrigger s).symm.trans hread
  exact hdma rfl hpage

/-! ### Read-modify-writes of memory -/

/-- An instruction that is a read-modify-write by `f`, at an address it may read and write back. -/
theorem modifiesByte_of_rmwInstr {i : Instr} {s : State} {f : Byte → Bool → RmwOut} (hs : MemoriesWf s)
    (hexec : exec i s = rmwInstr i.operand i.baseCycles f s) (h : Modifiable i f s) : ModifiesByte i f s := by
  obtain ⟨a, v, s1, hplace, hread, hw⟩ := h.writable
  have heffect := busRead_effect hread
  obtain ⟨t, hwrite⟩ := busWrite_writable hw (s1.setP (rmwCarry (f v (getFlag .c s.cpu.p)) s.cpu.p))
  have hnext := rmwInstr_next (base := i.baseCycles) (f := f) (t := t) hplace hread (by rw [heffect.cpu]; exact hwrite)
  have hcpu := (busWrite_side hwrite).1
  have hwf : MemoriesWf (s1.setP (rmwCarry (f v (getFlag .c s.cpu.p)) s.cpu.p)) := heffect.memoriesWf hs
  have hcell := busWrite_only_cell hwf hwrite
  rw [heffect.cpu] at hnext
  rw [WriteCpu, State.setP_cpu, heffect.cpu] at hcpu
  exact ⟨a, v, s1, t, hplace, hread, hwrite, hexec.trans hnext, hcpu, heffect.sameStorageExcept hcell⟩

/-- Settles O29: each mnemonic is the read-modify-write shape with its own computation. -/
theorem readModifyWritesComplete : Obligations.ReadModifyWritesComplete := fun _ s hs =>
  ⟨fun hm => modifiesByte_of_rmwInstr hs (exec_of_mnemonic hm s),
   fun hm => modifiesByte_of_rmwInstr hs (exec_of_mnemonic hm s),
   fun hm => modifiesByte_of_rmwInstr hs (exec_of_mnemonic hm s),
   fun hm => modifiesByte_of_rmwInstr hs (exec_of_mnemonic hm s),
   fun hm => modifiesByte_of_rmwInstr hs (exec_of_mnemonic hm s),
   fun hm => modifiesByte_of_rmwInstr hs (exec_of_mnemonic hm s)⟩

/-! ### The computations as numbers -/

theorem bitOf_zero (v : Byte) : bitOf v 0 = decide (v.toNat % 2 = 1) :=
  Nat.testBit_zero v.toNat

theorem toNat_shiftLeft_one (m : Byte) : (m <<< 1).toNat = 2 * m.toNat % 256 := by
  rw [BitVec.toNat_shiftLeft, Nat.shiftLeft_eq, Nat.mul_comm]

theorem toNat_shiftRight_one (m : Byte) : (m >>> 1).toNat = m.toNat / 2 := by
  rw [BitVec.toNat_ushiftRight, Nat.shiftRight_eq_div_pow]

/-- The doubled byte is even, so the carry that enters bit 0 is added to it. -/
theorem rolOf_value_toNat (m : Byte) (c : Bool) : (rolOf m c).value.toNat = 2 * m.toNat % 256 + c.toNat := by
  have heven : 2 * m.toNat % 256 = 2 ^ 1 * (m.toNat % 128) := by omega
  rw [rolOf, BitVec.toNat_or, toNat_shiftLeft_one, toNat_bitByte, heven]
  exact (Nat.two_pow_add_eq_or_of_lt c.toNat_lt _).symm

/-- The halved byte is below 128, so the carry that enters bit 7 is added to it. -/
theorem rorOf_value_toNat (m : Byte) (c : Bool) : (rorOf m c).value.toNat = m.toNat / 2 + 128 * c.toNat := by
  have hhalf : m.toNat / 2 < 2 ^ 7 := by omega
  have htop : (bitByte c <<< 7).toNat = 2 ^ 7 * c.toNat := by cases c <;> rfl
  rw [rorOf, BitVec.toNat_or, toNat_shiftRight_one, htop, Nat.or_comm, ← Nat.two_pow_add_eq_or_of_lt hhalf,
    Nat.add_comm]

/-- Settles O30: each computation's byte and carry, as numbers. -/
theorem shiftResultsAsNumbers : Obligations.ShiftResultsAsNumbers := by
  intro m c
  refine ⟨⟨BitVec.toNat_add m 1, rfl⟩, ⟨?_, rfl⟩, ⟨toNat_shiftLeft_one m, congrArg some (bitOf_seven m)⟩,
    ⟨toNat_shiftRight_one m, congrArg some (bitOf_zero m)⟩,
    ⟨rolOf_value_toNat m c, congrArg some (bitOf_seven m)⟩,
    ⟨rorOf_value_toNat m c, congrArg some (bitOf_zero m)⟩⟩
  rw [decOf, BitVec.toNat_sub, Nat.add_comm]
  rfl

/-! ### INC of the PPUDATA port -/

theorem vaddrStep_toNat (s : State) : (vaddrStep s).toNat = if s.ppu.ctrl.getLsbD 2 then 32 else 1 :=
  apply_ite BitVec.toNat _ _ _

/-- A PPUDATA read moves the pointer and leaves PPUCTRL, which holds the increment (R185). -/
theorem readPpuData_pointer (s : State) : (readPpuData s).2.ppu.vaddr = s.ppu.vaddr + vaddrStep s ∧
    vaddrStep (readPpuData s).2 = vaddrStep s := by
  unfold readPpuData
  dsimp only
  split <;> exact ⟨rfl, rfl⟩

theorem writePpuData_side (v : Byte) (s : State) :
    (writePpuData v s).cpu = s.cpu ∧ SameCells s (writePpuData v s) :=
  vwrite_side (dataAddr s) v s

/-- A PPUDATA read and a PPUDATA write move the pointer by two increments, to a number below 0x10000 (R185, R186). -/
theorem vaddr_after_read_write (v : Byte) (s : State) :
    (writePpuData v (readPpuData s).2).ppu.vaddr.toNat =
      (s.ppu.vaddr.toNat + (if s.ppu.ctrl.getLsbD 2 then 64 else 2)) % 0x10000 := by
  obtain ⟨hvaddr, hstep⟩ := readPpuData_pointer s
  have hwrite : (writePpuData v (readPpuData s).2).ppu.vaddr =
      (readPpuData s).2.ppu.vaddr + vaddrStep (readPpuData s).2 := rfl
  rw [hwrite, hstep, hvaddr, BitVec.toNat_add, BitVec.toNat_add, vaddrStep_toNat]
  split <;> omega

/-- INC 0x2007 is one PPUDATA read and one PPUDATA write, then Z and N and the cycles. -/
theorem exec_incPpuData (s : State) : ∃ v n,
    exec (.incAbs 0x2007) s = .next (((writePpuData v (readPpuData s).2).setZN v).setStall n) := by
  have hread : busRead 0x2007 s = .ok (readPpuData s).1 (readPpuData s).2 := rfl
  have hwrite (v : Byte) (u : State) : busWrite 0x2007 v u = .ok () (writePpuData v u) := rfl
  exact ⟨_, _, rmwInstr_next (m := .abs 0x2007) (base := 6) (f := incOf) rfl hread (hwrite _ _)⟩

/-- Settles O31: neither access reaches a register of the CPU, RAM or PRG RAM, and each moves the pointer once. -/
theorem incOfPpuDataAdvancesTwice : Obligations.IncOfPpuDataAdvancesTwice := by
  intro s
  obtain ⟨v, n, hexec⟩ := exec_incPpuData s
  have heffect : ReadEffect s (readPpuData s).2 := readPpu_effect 7 s
  have hvaddr := vaddr_after_read_write v s
  obtain ⟨hcpu, hram, hprgRam, -⟩ := writePpuData_side v (readPpuData s).2
  obtain ⟨hramRead, -, hprgRamRead, -⟩ := heffect.memories
  rw [heffect.cpu] at hcpu
  rw [hramRead] at hram
  rw [hprgRamRead] at hprgRam
  generalize writePpuData v (readPpuData s).2 = u at hexec hvaddr hcpu hram hprgRam
  exact ⟨_, hexec, hvaddr, (congrArg Cpu.a hcpu :), (congrArg Cpu.x hcpu :), (congrArg Cpu.y hcpu :), hram, hprgRam⟩

end Sys2Proof.Machine
end

section
/-! PROOFS. Family 45_control_transfer.md: JMP (R84, R85, R136), JSR (R137), RTS (R138) and the branches (R139–R147). -/

namespace Sys2Proof.Machine

/-! ### JMP -/

theorem toNat_lowByte (a : Addr) : (lowByte a).toNat = a.toNat % 256 :=
  BitVec.extractLsb'_toNat 0 8 a

/-- The high byte's address stays in the pointer's page (R84). -/
theorem toNat_wrapPointer (ptr : Addr) :
    (wrapPointer ptr).toNat = ptr.toNat / 256 * 256 + (ptr.toNat % 256 + 1) % 256 := by
  rw [wrapPointer, toNat_pair, toNat_highByte, BitVec.toNat_add, toNat_lowByte]
  rfl

section
variable {ptr : Addr} {lo hi : Byte} {s s1 s2 : State}

theorem jmpIndirect_next (hlo : busRead ptr s = .ok lo s1) (hhi : busRead (wrapPointer ptr) s1 = .ok hi s2) :
    jmpIndirect ptr s = .next ((s2.setPc (pair hi lo)).setStall (s2.cpu.stall + 4)) := by
  simp [jmpIndirect, hlo, hhi]

theorem jmpIndirect_low_disabled (hd : disabled ptr = true) :
    jmpIndirect ptr s = .next (s.setFault (some (.invalidAddress ptr))) := by
  simp [jmpIndirect, busRead_disabled hd]

theorem jmpIndirect_high_disabled (hlo : busRead ptr s = .ok lo s1) (hd : disabled (wrapPointer ptr) = true) :
    jmpIndirect ptr s = .next (s1.setFault (some (.invalidAddress (wrapPointer ptr)))) := by
  simp [jmpIndirect, hlo, busRead_disabled hd]

end

/-- Settles O32: JMP absolute sets PC; JMP indirect is two bus reads, each of which completes unless its address is
disabled. -/
theorem jumpsComplete : Obligations.JumpsComplete := by
  refine ⟨fun a s => onlyCpu_of_impliedInstr (exec_eq_meaning (.jmpAbs a) s) rfl rfl,
    fun a s => ⟨wrapPointer a, toNat_wrapPointer a, fun ha hh => ?_, jmpIndirect_low_disabled, fun ha hh => ?_⟩⟩
  · obtain ⟨lo, s1, hlo⟩ := busRead_enabled ha s
    obtain ⟨hi, s2, hhi⟩ := busRead_enabled hh s1
    have heffect := (busRead_effect hlo).trans (busRead_effect hhi)
    refine ⟨lo, hi, s1, s2, hlo, hhi, heffect, ?_⟩
    rw [← heffect.cpu]
    exact jmpIndirect_next hlo hhi
  · obtain ⟨lo, s1, hlo⟩ := busRead_enabled ha s
    refine ⟨lo, s1, hlo, ?_⟩
    rw [← (busRead_effect hlo).cpu]
    exact jmpIndirect_high_disabled hlo hh

/-! ### A word on the stack -/

theorem MemoriesWf.push {s : State} (hs : MemoriesWf s) (v : Byte) : MemoriesWf (push v s) := by
  obtain ⟨hram, hrest⟩ := hs
  rw [push_eq]
  exact ⟨Memory.write_wf (stackIndex_lt _) hram, hrest⟩

/-- Distinct values of S point at distinct bytes of the stack page. -/
theorem stackIndex_ne {j k : Byte} (h : j ≠ k) : 0x100 + j.toNat ≠ 0x100 + k.toNat :=
  fun he => h (BitVec.eq_of_toNat_eq (Nat.add_left_cancel he))

section
variable {s : State} (hs : MemoriesWf s) (a : Addr)
include hs

theorem stackByte_pushAddr_high : stackByte s.cpu.s (pushAddr a s) = highByte a := by
  have hne : s.cpu.s ≠ s.cpu.s - 1 := by bv_omega
  exact (read_push_other (hs.push (highByte a)) _ (stackIndex_ne hne)).trans (stackByte_push hs _)

theorem stackByte_pushAddr_low : stackByte (s.cpu.s - 1) (pushAddr a s) = lowByte a :=
  stackByte_push (hs.push (highByte a)) _

theorem read_pushAddr_other {k : Nat} (hhigh : k ≠ 0x100 + s.cpu.s.toNat) (hlow : k ≠ 0x100 + (s.cpu.s - 1).toNat) :
    Memory.read (pushAddr a s).ram k = Memory.read s.ram k :=
  (read_push_other (hs.push (highByte a)) _ hlow).trans (read_push_other hs _ hhigh)

end

/-- What pushing a word leaves unchanged: all but RAM and S. -/
theorem pushAddr_frame (a : Addr) (s : State) :
    pushAddr a s = { s with ram := (pushAddr a s).ram, cpu := { s.cpu with s := s.cpu.s - 2 } } := by
  have hs : s.cpu.s - 2 = s.cpu.s - 1 - 1 := by bv_omega
  rw [hs]
  rfl

theorem afterPullAddr_eq (s : State) : afterPullAddr s = s.setS (s.cpu.s + 2) := by
  have hs : s.cpu.s + 2 = s.cpu.s + 1 + 1 := by bv_omega
  rw [hs]
  rfl

/-! ### JSR and RTS -/

theorem exec_jsr (a : Addr) (s : State) : exec (.jsr a) s =
    .next (((pushAddr (s.cpu.pc - 1) s).setPc a).setStall (s.cpu.stall + 5)) :=
  (exec_eq_meaning (.jsr a) s).trans (impliedInstr_eq _ _ _)

/-- Settles O33: JSR pushes the word PC - 1 and sets PC. -/
theorem jsrPushesAndJumps : Obligations.JsrPushesAndJumps := by
  intro a s hs
  refine ⟨rfl, _, exec_jsr a s, stackByte_pushAddr_high hs _, stackByte_pushAddr_low hs _,
    fun _ => read_pushAddr_other hs _, ?_⟩
  rw [pushAddr_frame]
  rfl

theorem onlyCpu_rts (s : State) : OnlyCpu .rts { s.cpu with
    s := s.cpu.s + 2, pc := pair (stackByte (s.cpu.s + 2) s) (stackByte (s.cpu.s + 1) s) + 1 } s := by
  rw [← pulledAddr_eq]
  exact onlyCpu_of_impliedInstr (f := fun s => (afterPullAddr s).setPc (pulledAddr s + 1)) (exec_eq_meaning .rts s)
    (by rw [afterPullAddr_eq]; rfl) rfl

/-- Settles O34: RTS pulls a word and adds 1, so after a JSR it adds back the 1 that JSR took off. -/
theorem rtsPullsAndIncrements : Obligations.RtsPullsAndIncrements := by
  refine ⟨rfl, onlyCpu_rts, fun a s t u hs hjsr hS hhigh hlow => ?_⟩
  cases (exec_jsr a s).symm.trans hjsr
  rw [pushAddr_frame] at hS
  have hslotHigh : u.cpu.s + 2 = s.cpu.s := by rw [hS]; exact BitVec.sub_add_cancel _ _
  have hslotLow : u.cpu.s + 1 = s.cpu.s - 1 := by rw [← hslotHigh]; bv_omega
  refine ⟨_, onlyCpu_rts u, ?_, hslotHigh, rfl⟩
  calc pair (stackByte (u.cpu.s + 2) u) (stackByte (u.cpu.s + 1) u) + 1
      = pair (stackByte s.cpu.s (pushAddr (s.cpu.pc - 1) s)) (stackByte (s.cpu.s - 1) (pushAddr (s.cpu.pc - 1) s)) + 1 := by
        rw [hslotHigh, hslotLow, hhigh, hlow]; rfl
    _ = s.cpu.pc := by
        rw [stackByte_pushAddr_high hs, stackByte_pushAddr_low hs, pair_high_low, BitVec.sub_add_cancel]

/-! ### Branches -/

/-- A branch's target is PC plus the signed displacement (R83, R139). -/
theorem toNat_branchTarget (pc : Addr) (off : Byte) :
    ((branchTarget pc off).toNat : Int) = (pc.toNat + off.toInt) % 65536 := by
  have h : (sext16 off).toInt = off.toInt := BitVec.toInt_signExtend_of_le (by decide)
  rw [branchTarget, BitVec.toNat_add]
  rw [BitVec.toInt_eq_toNat_cond] at h
  split at h <;> omega

theorem branchInstr_not_taken (off : Byte) (s : State) :
    branchInstr false off s = .next (s.setStall (s.cpu.stall + 1)) := rfl

theorem branchInstr_taken (off : Byte) (s : State) : branchInstr true off s =
    .next ((s.setPc (branchTarget s.cpu.pc off)).setStall (s.cpu.stall +
      (if s.cpu.pc.toNat / 256 = (branchTarget s.cpu.pc off).toNat / 256 then 2 else 3))) := by
  simp only [branchInstr, if_true, complete_ok, pagesDiffer_eq_decide]
  by_cases h : s.cpu.pc.toNat / 256 = (branchTarget s.cpu.pc off).toNat / 256 <;> simp [h]

/-- Settles O35: each branch is the branch shape on its flag and sense (R140–R147). -/
theorem branchesComplete : Obligations.BranchesComplete := by
  intro off s bc hbc
  have hexec : exec bc.1 s = branchInstr bc.2 off s := by
    fin_cases hbc <;> exact exec_eq_meaning _ s
  rw [hexec]
  refine ⟨fun hc => ?_, fun hc => ⟨branchTarget s.cpu.pc off, toNat_branchTarget _ _, ?_⟩⟩
  · rw [hc]
    exact branchInstr_not_taken off s
  · rw [hc]
    exact branchInstr_taken off s

end Sys2Proof.Machine
end

section
/-! PROOFS. Family 46_system_flags.md: BRK (R149, R165), RTI (R150), NOP (R151) and the flag instructions (R152–R158). -/

namespace Sys2Proof.Machine

/-! ### Entries -/

/-- The status byte an entry pushes is P with bits 5, 4 and 2 set (R165). -/
theorem entryByte_eq (p : Byte) : entryByte p = p ||| 0x34 :=
  BitVec.or_assoc p 0x20 0x34

/-- An entry stores three bytes: the word PC, then the status byte. -/
theorem enterInterrupt_ram (vector : Addr) (s : State) :
    (enterInterrupt vector s).ram = (push (entryByte s.cpu.p) (pushAddr s.cpu.pc s)).ram := rfl

/-- What an entry leaves unchanged: all but RAM, S, P's bit I and PC. -/
theorem enterInterrupt_frame (vector : Addr) (s : State) : enterInterrupt vector s =
    { s with ram := (enterInterrupt vector s).ram
             cpu := { s.cpu with s := s.cpu.s - 3, p := s.cpu.p ||| 0x04, pc := readVector vector s } } := by
  have hS : s.cpu.s - 3 = s.cpu.s - 1 - 1 - 1 := by bv_omega
  rw [hS]
  rfl

/-- The word goes to the slots S and S - 1; the status byte's slot S - 2 is another one, so its push keeps them (R165). -/
theorem entered_enterInterrupt {s : State} (hs : MemoriesWf s) (vector : Addr) :
    Entered vector s.cpu.pc s (enterInterrupt vector s) := by
  have hwf : MemoriesWf (pushAddr s.cpu.pc s) := (hs.push _).push _
  have hS : (pushAddr s.cpu.pc s).cpu.s = s.cpu.s - 2 := congrArg (·.cpu.s) (pushAddr_frame s.cpu.pc s)
  have hother : ∀ k, k ≠ 0x100 + (s.cpu.s - 2).toNat →
      Memory.read (enterInterrupt vector s).ram k = Memory.read (pushAddr s.cpu.pc s).ram k := fun k hk => by
    rw [enterInterrupt_ram]
    exact read_push_other hwf _ (hS ▸ hk)
  have hhigh : s.cpu.s ≠ s.cpu.s - 2 := by bv_omega
  have hlow : s.cpu.s - 1 ≠ s.cpu.s - 2 := by bv_omega
  refine ⟨(hother _ (stackIndex_ne hhigh)).trans (stackByte_pushAddr_high hs _),
    (hother _ (stackIndex_ne hlow)).trans (stackByte_pushAddr_low hs _), ?_,
    fun k h0 h1 h2 => (hother k h2).trans (read_pushAddr_other hs _ h0 h1), enterInterrupt_frame vector s⟩
  rw [← entryByte_eq, ← hS]
  exact stackByte_push hwf _

section
variable {vector ret : Addr} {s t : State}

/-- PC is replaced by an entry: only the return address says what it was. -/
theorem entered_setPc (a : Addr) : Entered vector ret (s.setPc a) t ↔ Entered vector ret s t := Iff.rfl

/-- An entry fixes no stall count. -/
theorem Entered.setStall (h : Entered vector ret s t) (n : Nat) : Entered vector ret s (t.setStall n) := by
  obtain ⟨hhigh, hlow, hstatus, hother, hframe⟩ := h
  refine ⟨hhigh, hlow, hstatus, hother, ?_⟩
  rw [hframe]
  rfl

end

/-! ### BRK and RTI -/

theorem exec_brk (s : State) : exec .brk s =
    .next ((enterInterrupt irqVector (s.setPc (s.cpu.pc + 1))).setStall (s.cpu.stall + 6)) :=
  (exec_eq_meaning .brk s).trans (impliedInstr_eq _ _ _)

/-- Settles O36: BRK is an entry, after its padding byte, through the IRQ vector. -/
theorem brkEntersThroughIrqVector : Obligations.BrkEntersThroughIrqVector := by
  intro s hs
  have hs' : MemoriesWf (s.setPc (s.cpu.pc + 1)) := hs
  have hentry : Entered irqVector (s.cpu.pc + 1) s (enterInterrupt irqVector (s.setPc (s.cpu.pc + 1))) :=
    (entered_setPc _).mp (entered_enterInterrupt hs' irqVector)
  exact ⟨_, exec_brk s, hentry.setStall _, rfl⟩

/-- RTI pulls P and then a word, so its slots are the three above S. -/
theorem returnFromInterrupt_eq (s : State) : returnFromInterrupt s =
    { s with cpu := { s.cpu with s := s.cpu.s + 3, p := pulledStatus (stackByte (s.cpu.s + 1) s)
                                 pc := pair (stackByte (s.cpu.s + 3) s) (stackByte (s.cpu.s + 2) s) } } := by
  have h2 : s.cpu.s + 2 = s.cpu.s + 1 + 1 := by bv_omega
  have h3 : s.cpu.s + 3 = s.cpu.s + 1 + 2 := by bv_omega
  rw [returnFromInterrupt, afterPullAddr_eq, pulledAddr_eq, pulled_eq, h2, h3]
  rfl

/-- Settles O37: RTI's P is the pulled status byte, its PC the pulled word. -/
theorem rtiRestoresStatusAndPc : Obligations.RtiRestoresStatusAndPc := fun s =>
  ⟨pulledStatus (stackByte (s.cpu.s + 1) s),
   onlyCpu_of_impliedInstr (exec_eq_meaning .rti s) (returnFromInterrupt_eq s) rfl,
   fun _ => pulledStatus_bit _⟩

/-! ### The flag instructions -/

section
variable {i : Instr} {s : State} {f : Flag}

theorem onlyCpu_of_clearFlag (hexec : exec i s = impliedInstr i.baseCycles (State.putF f false) s) :
    OnlyCpu i { s.cpu with p := s.cpu.p &&& ~~~flagMask f } s :=
  onlyCpu_of_impliedInstr hexec rfl rfl

theorem onlyCpu_of_setFlag (hexec : exec i s = impliedInstr i.baseCycles (State.putF f true) s) :
    OnlyCpu i { s.cpu with p := s.cpu.p ||| flagMask f } s :=
  onlyCpu_of_impliedInstr hexec rfl rfl

end

/-- Settles O38: each flag instruction clears or sets the mask of its flag, NOP replaces the registers by themselves. -/
theorem flagInstructionsComplete : Obligations.FlagInstructionsComplete := fun s =>
  ⟨onlyCpu_of_clearFlag (f := .c) (exec_eq_meaning .clc s),
   onlyCpu_of_setFlag (f := .c) (exec_eq_meaning .sec s),
   onlyCpu_of_clearFlag (f := .i) (exec_eq_meaning .cli s),
   onlyCpu_of_setFlag (f := .i) (exec_eq_meaning .sei s),
   onlyCpu_of_clearFlag (f := .d) (exec_eq_meaning .cld s),
   onlyCpu_of_setFlag (f := .d) (exec_eq_meaning .sed s),
   onlyCpu_of_clearFlag (f := .v) (exec_eq_meaning .clv s),
   onlyCpu_of_impliedInstr (f := fun s => s) (exec_eq_meaning .nop s) rfl rfl⟩

end Sys2Proof.Machine
end

section
/-! PROOFS. Family 60_exceptions.md: faults (R160), the boundary logic (R164), interrupt entry (R165) and return (R167), and
that no instruction takes a pending interrupt away (R163). -/

namespace Sys2Proof.Machine

/-! ### Faults -/

theorem step_is_next {s : State} (hs : s.cpu.fault = none) : ∃ t, step s = .next t := by
  obtain ⟨u, hu⟩ := cpuTick_is_next s
  exact ⟨afterCpuTick u, by simp only [step, hs, systemTick, hu]⟩

theorem step_of_fault {s : State} {r : Fault} (hs : s.cpu.fault = some r) : step s = .fault r := by
  simp only [step, hs]

theorem step_ne_refused (s : State) (r : Refusal) : step s ≠ .refused r := by
  intro h
  cases hs : s.cpu.fault with
  | none =>
    obtain ⟨t, ht⟩ := step_is_next hs
    cases ht.symm.trans h
  | some f => cases (step_of_fault hs).symm.trans h

/-- No host action clears the fault record, the reset button included (R160, R233). -/
theorem hostAct_fault (h : HostAction) (s : State) : (hostAct h s).cpu.fault = s.cpu.fault := by
  cases h with
  | reset =>
    simp only [hostAct, resetSequence, State.putF, State.setApu_cpu, State.setPpu_cpu, State.setStall_cpu,
      State.setIrq_cpu, State.setNmi_cpu, State.setPc_cpu, State.setS_cpu, State.setP_cpu]
  | _ => rfl

theorem afterCpuTick_of_fault {s : State} (hs : s.cpu.fault ≠ none) : afterCpuTick s = s :=
  if_pos (Option.isSome_iff_ne_none.2 hs)

theorem afterCpuTick_of_running {s : State} (hs : s.cpu.fault = none) : afterCpuTick s = finishTick s := by
  simp [afterCpuTick, hs]

/-- Settles O6: every CPU tick ends in a next state, and the step and what follows the tick look at the record first. -/
theorem faultEndsTheRun : Obligations.FaultEndsTheRun :=
  ⟨fun _ => step_is_next, fun _ _ => step_of_fault, step_ne_refused, hostAct_fault, fun _ _ _ => rfl,
    fun _ => afterCpuTick_of_fault⟩

/-- From a state in form the rest of the tick raises no fault: its memory reader reads PRG ROM (R217). -/
theorem finishTick_fault {s : State} (hs : StateWf s) : (finishTick s).cpu.fault = s.cpu.fault := by
  have hppu : (ppuStep (ppuStep (ppuStep s))).cpu.fault = s.cpu.fault := by
    obtain ⟨-, -, -, h1, -⟩ := ppuStep_rest s
    obtain ⟨-, -, -, h2, -⟩ := ppuStep_rest (ppuStep s)
    obtain ⟨-, -, -, h3, -⟩ := ppuStep_rest (ppuStep (ppuStep s))
    exact h3.trans (h2.trans h1)
  have hwf : StateWf (ppuStep (ppuStep (ppuStep s))) := ppuStep_keeps (ppuStep_keeps (ppuStep_keeps hs))
  unfold finishTick
  generalize ppuStep (ppuStep (ppuStep s)) = u at hppu hwf ⊢
  obtain ⟨t, ht, -, -, -, -, -, hfault, -⟩ := apuStep_ok hwf
  rw [ht]
  exact hfault.trans hppu

/-- Settles O8: the fault was raised in the CPU tick, which moves none of these, and nothing follows it. -/
theorem faultAbandonsTheTick : Obligations.FaultAbandonsTheTick := by
  rintro s t ⟨hwf, -⟩ - hstep hfault
  obtain ⟨u, hu, rfl⟩ := step_eq_next hstep
  have hraised : u.cpu.fault ≠ none := fun hnone =>
    hfault (by rw [afterCpuTick_of_running hnone, finishTick_fault (cpuTick_keeps hwf hu), hnone])
  rw [afterCpuTick_of_fault hraised]
  obtain ⟨-, -, hout, hline, hdot, hcycle, hapu⟩ := cpuTick_fixed (Fixed.refl s) hu
  exact ⟨hline, hdot, hapu, hout, hcycle⟩

/-! ### The boundary -/

/-- A CPU tick that raises no fault is followed by the rest of the tick (R229). -/
theorem step_of_running_tick {s t : State} (hs : s.cpu.fault = none) (ht : cpuTick s = .next t)
    (hr : t.cpu.fault = none) : step s = .next (finishTick t) := by
  simp only [step, hs, systemTick, ht, afterCpuTick_of_running hr]

section
variable {s : State} (hstall : s.cpu.stall = 0)
include hstall

/-- NMI comes first (R164). -/
theorem cpuTick_nmi (hnmi : s.cpu.nmiPending = true) :
    cpuTick s = .next (takeInterrupt nmiVector (s.setNmi false)) := by
  simp [cpuTick, boundary, hstall, hnmi]

theorem cpuTick_irq (hnmi : s.cpu.nmiPending = false) (hirq : s.cpu.irqPending = true)
    (hI : getFlag .i s.cpu.p = false) : cpuTick s = .next (takeInterrupt irqVector (s.setIrq false)) := by
  simp [cpuTick, boundary, hstall, hnmi, hirq, hI]

/-- A disabled IRQ is dropped, and the boundary goes on as if it had never been requested (R164). -/
theorem cpuTick_irq_disabled (hnmi : s.cpu.nmiPending = false) (hirq : s.cpu.irqPending = true)
    (hI : getFlag .i s.cpu.p = true) : cpuTick s = cpuTick (s.setIrq false) := by
  simp [cpuTick, boundary, hstall, hnmi, hirq, hI]

end

/-- What an entry at a boundary does to the CPU: all an entry does, and 6 cycles are left (R164, R165). -/
theorem takeInterrupt_cpu (vector : Addr) (s : State) : (takeInterrupt vector s).cpu =
    { s.cpu with s := s.cpu.s - 3, p := s.cpu.p ||| 0x04, pc := readVector vector s, stall := 6 } := by
  rw [takeInterrupt, State.setStall_cpu, enterInterrupt_frame]

/-- A CPU tick that is an entry raises no fault, so the rest of the tick follows it. -/
theorem step_of_entry {s u : State} {vector : Addr} (ht : cpuTick s = .next (takeInterrupt vector u))
    (hs : s.cpu.fault = none) (hu : u.cpu.fault = none) (hwf : MemoriesWf u) :
    ∃ t, step s = .next (finishTick t) ∧ Entered vector u.cpu.pc u t ∧ t.cpu.stall = 6 ∧
      t.cpu.irqPending = u.cpu.irqPending := by
  refine ⟨takeInterrupt vector u, step_of_running_tick hs ht ?_, (entered_enterInterrupt hwf vector).setStall 6, ?_, ?_⟩
  · rw [takeInterrupt_cpu, hu]
  · rw [takeInterrupt_cpu]
  · rw [takeInterrupt_cpu]

/-- Settles O10: the three cases of the boundary, two of them entries. -/
theorem boundaryTakesInterrupts : Obligations.BoundaryTakesInterrupts := by
  refine ⟨fun s hs hf hstall hnmi => ?_, fun s hs hf hstall hnmi hirq hI => ?_, fun s hf hstall hnmi hirq hI => ?_⟩
  · exact step_of_entry (u := s.setNmi false) (cpuTick_nmi hstall hnmi) hf hf hs
  · obtain ⟨t, hstep, hentered, hstall6, -⟩ :=
      step_of_entry (u := s.setIrq false) (cpuTick_irq hstall hnmi hirq hI) hf hf hs
    exact ⟨t, hstep, hentered, hstall6⟩
  · simp only [step, State.setIrq_cpu, hf, systemTick, cpuTick_irq_disabled hstall hnmi hirq hI]

/-! ### Entry and return -/

/-- Settles O11: the entry's own pushes and vector reads, which are bus reads of PRG ROM. -/
theorem interruptEntrySavesAndVectors : Obligations.InterruptEntrySavesAndVectors := by
  intro vector s hvector hs
  have hlow : 0x8000 ≤ vector.toNat := by rcases hvector with rfl | rfl <;> decide
  have hhigh : 0x8000 ≤ (vector + 1).toNat := by rcases hvector with rfl | rfl <;> decide
  exact ⟨entered_enterInterrupt hs vector, rfl, busRead_prg hlow s, busRead_prg hhigh s⟩

/-- The status byte an entry pushes, pulled again: bits 4 and 5 come out in form and bit 2 stays set (R167). -/
theorem pulledStatus_entry {p : Byte} (hp : StatusWf p) : pulledStatus (p ||| 0x34) = p ||| 0x04 := by
  obtain ⟨(h5 : p[5] = true), (h4 : p[4] = false)⟩ := hp
  refine BitVec.eq_of_getLsbD_eq fun k hk => ?_
  rw [pulledStatus_bit _ hk]
  interval_cases k <;> simp [h4, h5]

theorem exec_rti (s : State) : exec .rti s = .next ((returnFromInterrupt s).setStall (s.cpu.stall + 5)) :=
  (exec_eq_meaning .rti s).trans (impliedInstr_eq _ _ _)

/-- Settles O12: RTI's three slots above S are the three slots of the entry. -/
theorem rtiUndoesInterruptEntry : Obligations.RtiUndoesInterruptEntry := by
  intro vector s hs hp
  obtain ⟨hhigh, hlow, hstatus, -, hframe⟩ := entered_enterInterrupt hs vector
  generalize enterInterrupt vector s = t at *
  have hS : t.cpu.s = s.cpu.s - 3 := by rw [hframe]
  have h1 : t.cpu.s + 1 = s.cpu.s - 2 := by rw [hS]; bv_omega
  have h2 : t.cpu.s + 2 = s.cpu.s - 1 := by rw [hS]; bv_omega
  have h3 : t.cpu.s + 3 = s.cpu.s := by rw [hS]; exact BitVec.sub_add_cancel _ _
  have hexec := exec_rti t
  rw [returnFromInterrupt_eq, h1, h2, h3, hhigh, hlow, hstatus, pair_high_low, pulledStatus_entry hp] at hexec
  refine ⟨_, hexec, rfl, rfl, rfl, ?_, ?_, ?_⟩ <;> · rw [hframe]; rfl

/-! ### The interrupt latches -/

/-- From `s` to `t` a pending NMI stays pending, the IRQ latch is the same and `stall` is no lower. -/
def LatchesKept (s t : State) : Prop :=
  (s.cpu.nmiPending = true → t.cpu.nmiPending = true) ∧ t.cpu.irqPending = s.cpu.irqPending ∧
  s.cpu.stall ≤ t.cpu.stall

section
variable {s0 s t : State}

theorem LatchesKept.refl (s : State) : LatchesKept s s := ⟨id, rfl, Nat.le_refl _⟩

/-- Only the CPU's own state matters. -/
theorem LatchesKept.of_cpu (h : LatchesKept s0 s) (hcpu : t.cpu = s.cpu) : LatchesKept s0 t := by
  unfold LatchesKept
  rw [hcpu]
  exact h

theorem LatchesKept.setApu (h : LatchesKept s0 s) (a : Apu) : LatchesKept s0 (s.setApu a) :=
  h.of_cpu (State.setApu_cpu s a)

theorem LatchesKept.addStall (h : LatchesKept s0 s) (n : Nat) : LatchesKept s0 (s.addStall n) := by
  obtain ⟨hnmi, hirq, hstall⟩ := h
  exact ⟨hnmi, hirq, Nat.le_add_right_of_le hstall⟩

theorem LatchesKept.requestNmi (h : LatchesKept s0 s) : LatchesKept s0 s.requestNmi := by
  obtain ⟨-, hirq, hstall⟩ := h
  exact ⟨fun _ => rfl, hirq, hstall⟩

theorem LatchesKept.pushAddr (h : LatchesKept s0 s) (a : Addr) : LatchesKept s0 (pushAddr a s) := by
  rw [pushAddr_frame]
  exact h

theorem LatchesKept.enterInterrupt (h : LatchesKept s0 s) (vector : Addr) :
    LatchesKept s0 (enterInterrupt vector s) := by
  rw [enterInterrupt_frame]
  exact h

theorem LatchesKept.returnFromInterrupt (h : LatchesKept s0 s) : LatchesKept s0 (returnFromInterrupt s) := by
  rw [returnFromInterrupt_eq]
  exact h

/-! #### Bus accesses -/

theorem busRead_latches (h : LatchesKept s0 s) (a : Addr) : (busRead a s).Leaves (LatchesKept s0) := by
  cases hr : busRead a s with
  | ok v t => exact h.of_cpu (busRead_effect hr).cpu
  | stop r t =>
    obtain ⟨-, -, rfl⟩ := busRead_stop hr
    exact h

/-- Of the PPU's registers only PPUCTRL reaches a latch: it may request an NMI (R189). -/
theorem LatchesKept.writePpu (h : LatchesKept s0 s) (r : Nat) (v : Byte) : LatchesKept s0 (writePpu r v s) := by
  unfold Machine.writePpu
  split
  · have hctrl : LatchesKept s0 (s.setPpu { s.ppu with ctrl := v }) := h
    unfold writePpuCtrl
    dsimp only
    split
    · exact hctrl.requestNmi
    · exact hctrl
  · exact h
  · exact h
  · exact h
  · unfold writePpuScroll; split <;> exact h
  · unfold writePpuAddr; split <;> exact h
  · obtain ⟨hcpu, -⟩ := vwrite_side (dataAddr s) v s
    exact h.of_cpu hcpu
  · exact h

theorem oamDmaCopy_latches (v : Byte) : ∀ (n : Nat) {s : State}, LatchesKept s0 s →
    (oamDmaCopy v n s).Leaves (LatchesKept s0)
  | 0, _, h => h
  | n + 1, _, h => (busRead_latches h _).andThen fun _ _ hread => oamDmaCopy_latches v n hread

/-- OAM DMA adds stall cycles when its copy is done (R221). -/
theorem oamDma_latches (h : LatchesKept s0 s) (v : Byte) : (oamDma v s).Leaves (LatchesKept s0) :=
  (oamDmaCopy_latches v 256 h).andThen fun _ _ hcopy => hcopy.addStall _

/-- No register of 0x4000–0x4017 reaches a latch (R201, R203, R204). -/
theorem ioWrite_latches (h : LatchesKept s0 s) (a : Addr) (v : Byte) : (ioWrite a v s).Leaves (LatchesKept s0) := by
  unfold ioWrite
  split
  · exact oamDma_latches h v
  · exact h.setApu _
  · unfold writeStrobe; dsimp only; split <;> exact h
  · exact h.setApu _
  · exact h.setApu _

theorem busWrite_latches (h : LatchesKept s0 s) (a : Addr) (v : Byte) : (busWrite a v s).Leaves (LatchesKept s0) := by
  unfold busWrite
  split
  · exact h
  split
  · exact h.writePpu _ v
  split
  · exact ioWrite_latches h a v
  split
  · exact h
  · unfold cartWrite; split <;> exact h

/-! #### Shapes of instructions -/

theorem loadPlace_latches (h : LatchesKept s0 s) (p : Place) : (loadPlace p s).Leaves (LatchesKept s0) := by
  cases p with
  | mem a => exact busRead_latches h a
  | _ => exact h

theorem storePlace_latches (h : LatchesKept s0 s) (p : Place) (v : Byte) :
    (storePlace p v s).Leaves (LatchesKept s0) := by
  cases p with
  | mem a => exact busWrite_latches h a v
  | _ => exact h

/-- The end of an instruction adds its cycles or records its fault. -/
theorem complete_latches {base : Nat} {m : Access Nat} (he : complete base m = .next t)
    (hm : m.Leaves (LatchesKept s0)) : LatchesKept s0 t := by
  cases m with
  | ok extra s => cases he; exact LatchesKept.addStall hm _
  | stop r s => cases he; exact hm

theorem readInstr_latches {m : Operand} {base : Nat} {use : Byte → State → State}
    (he : readInstr m base use s = .next t) (huse : ∀ v u, LatchesKept s0 u → LatchesKept s0 (use v u))
    (h : LatchesKept s0 s) : LatchesKept s0 t :=
  complete_latches he ((loadPlace_latches h _).andThen huse)

theorem writeInstr_latches {m : Operand} {base : Nat} {v : Byte} (he : writeInstr m base v s = .next t)
    (h : LatchesKept s0 s) : LatchesKept s0 t :=
  complete_latches he ((storePlace_latches h _ _).andThen fun _ _ hstore => hstore)

theorem rmwInstr_latches {m : Operand} {base : Nat} {f : Byte → Bool → RmwOut}
    (he : rmwInstr m base f s = .next t) (h : LatchesKept s0 s) : LatchesKept s0 t :=
  complete_latches he <| (loadPlace_latches h _).andThen fun v s1 hload =>
    have hcarry : LatchesKept s0 (s1.setP (rmwCarry (f v (getFlag .c s1.cpu.p)) s1.cpu.p)) := hload
    (storePlace_latches hcarry _ _).andThen fun _ _ hstore => hstore

theorem impliedInstr_latches {base : Nat} {f : State → State} (he : impliedInstr base f s = .next t)
    (hf : LatchesKept s0 (f s)) : LatchesKept s0 t :=
  complete_latches he hf

theorem branchIf_latches {c : Bool} {o : Operand} (he : meaningOf.branchIf c o s = .next t) (h : LatchesKept s0 s) :
    LatchesKept s0 t := by
  unfold meaningOf.branchIf at he
  split at he
  · unfold branchInstr at he
    dsimp only at he
    split at he <;> exact complete_latches he h
  · cases he
    exact h

theorem jmpIndirect_latches {p : Addr} (he : jmpIndirect p s = .next t) (h : LatchesKept s0 s) : LatchesKept s0 t :=
  complete_latches he <| (busRead_latches h _).andThen fun _ _ hlo => (busRead_latches hlo _).andThen fun _ _ hhi => hhi

/-- Apart from its bus accesses and its cycle count an instruction changes registers and RAM only, whatever its shape. -/
theorem exec_latches {i : Instr} (he : exec i s = .next t) (h : LatchesKept s0 s) : LatchesKept s0 t := by
  rw [exec_eq_meaning] at he
  generalize i.mnemonic = m at he
  cases m <;> unfold meaningOf at he <;> dsimp only at he
  case lda | ldx | ldy | adc | sbc | and | ora | eor | bit | cmp | cpx | cpy =>
    exact readInstr_latches he (fun _ _ hload => hload) h
  case sta | stx | sty => exact writeInstr_latches he h
  case inc | dec | asl | lsr | rol | ror => exact rmwInstr_latches he h
  case bcc | bcs | beq | bne | bmi | bpl | bvc | bvs => exact branchIf_latches he h
  case jmp =>
    split at he
    · exact jmpIndirect_latches he h
    · exact impliedInstr_latches he h
    · cases he; exact h
  case jsr =>
    split at he
    · exact impliedInstr_latches he (h.pushAddr _)
    · cases he; exact h
  case brk =>
    have hpc : LatchesKept s0 (s.setPc (s.cpu.pc + 1)) := h
    exact impliedInstr_latches he (hpc.enterInterrupt irqVector)
  case rti => exact impliedInstr_latches he h.returnFromInterrupt
  all_goals exact impliedInstr_latches he h

end

/-- Settles O13: the latches and `stall` by the shape of the instruction; no instruction moves the tick count. -/
theorem latchesOutliveInstructions : Obligations.LatchesOutliveInstructions := by
  intro i s t he
  obtain ⟨hnmi, hirq, hstall⟩ := exec_latches he (LatchesKept.refl s)
  obtain ⟨-, -, -, -, -, hcycle, -⟩ := exec_fixed (Fixed.refl s) he
  exact ⟨hnmi, hirq, hstall, hcycle⟩

end Sys2Proof.Machine
end

section
/-! PROOFS. Family 61_ppu.md: the dot state machine (R187–R190, R194, R195), the PPU's registers on the CPU bus
(R176–R186, R189), and the picture (R190–R193). -/

namespace Sys2Proof.Machine

/-! ### The position in the frame -/

theorem ppuStep_ppuWf {s : State} (h : PpuWf s.ppu) : PpuWf (ppuStep s).ppu := by
  obtain ⟨_, _, _, _, _, hd⟩ := dotEvents_effect s
  rw [ppuStep, hd]
  exact advanceDot_ppuWf h

/-- `n` steps stay in the frame and move the position by `n` dots around it. -/
theorem ppuSteps_pos {n : Nat} : ∀ {s : State}, PpuWf s.ppu → PpuWf (ppuSteps n s).ppu ∧
    framePos (ppuSteps n s).ppu = (framePos s.ppu + n) % dotsPerFrame := by
  induction n with
  | zero =>
    intro s ⟨hline, hdot⟩
    refine ⟨⟨hline, hdot⟩, ?_⟩
    change s.ppu.scanline < 262 at hline
    change s.ppu.dot < 341 at hdot
    show _ * 341 + _ = (_ * 341 + _ + 0) % 89342
    rw [ppuSteps]
    omega
  | succ n ih =>
    intro s h
    obtain ⟨hwf, hpos⟩ := ih (ppuStep_ppuWf h)
    refine ⟨hwf, hpos.trans ?_⟩
    rw [ppuStep_pos h, Nat.mod_add_mod, Nat.add_assoc, Nat.add_comm 1]

/-- Settles O47: one step moves the position by one dot around the frame, so `n` steps move it by `n`. -/
theorem frameIs89342Dots : Obligations.FrameIs89342Dots := by
  intro n s hline hdot
  obtain ⟨⟨hline', hdot'⟩, hpos⟩ := ppuSteps_pos (n := n) (s := s) ⟨hline, hdot⟩
  change (ppuSteps n s).ppu.scanline < 262 at hline'
  change (ppuSteps n s).ppu.dot < 341 at hdot'
  change _ * 341 + _ = (_ * 341 + _ + n) % 89342 at hpos
  exact ⟨hline', hdot', hpos, by omega⟩

/-! ### The PPU's registers on the bus -/

section
variable {a : Addr} (hlo : 0x2000 ≤ a.toNat) (hhi : a.toNat < 0x4000)
include hlo hhi

theorem busRead_ppu (s : State) : busRead a s = .ok (readPpu (a.toNat % 8) s).1 (readPpu (a.toNat % 8) s).2 := by
  rw [busRead, if_neg (by omega), if_pos hhi]

theorem busWrite_ppu (v : Byte) (s : State) : busWrite a v s = .ok () (writePpu (a.toNat % 8) v s) := by
  rw [busWrite, if_neg (by omega), if_pos hhi]

end

/-! ### PPUSTATUS -/

/-- A flag shifted to bit `n` of a byte is that bit, the others being 0. -/
theorem bitByte_shiftLeft_bit (b : Bool) (n : Nat) {k : Nat} (hk : k < 8) :
    (bitByte b <<< n).getLsbD k = (decide (k = n) && b) := by
  rw [BitVec.getLsbD_shiftLeft, decide_eq_true hk, Bool.true_and]
  cases b with
  | false => simp [bitByte]
  | true =>
    rw [bitByte, if_pos rfl, BitVec.ofNat_eq_ofNat, BitVec.getLsbD_one]
    grind

/-- Every bit of the status byte (R179). -/
theorem statusRead_bit (s : State) {k : Nat} (hk : k < 8) : (statusRead s).getLsbD k =
    if k = 7 then s.ppu.vbl else if k = 6 then s.ppu.spr0 else if k = 5 then s.ppu.ovf
    else (openBusByte s).getLsbD k := by
  have hmask : (0x1F : Byte).getLsbD k = decide (k < 5) := by decide +revert
  simp only [statusRead, BitVec.getLsbD_or, bitByte_shiftLeft_bit _ _ hk, BitVec.getLsbD_and, hmask]
  split_ifs <;> grind

/-- Settles O39: every mirror is the status register, whose byte is known bit by bit. -/
theorem ppuStatusRead : Obligations.PpuStatusRead := by
  intro a s hlo hhi ha
  refine ⟨⟨statusRead s, ?_, statusRead_bit s (by omega), statusRead_bit s (by omega), statusRead_bit s (by omega),
    fun k hk => ?_⟩, fun v => ?_⟩
  · rw [busRead_ppu hlo hhi, ha]; rfl
  · rw [statusRead_bit s (by omega), if_neg (by omega), if_neg (by omega), if_neg (by omega)]; rfl
  · rw [busWrite_ppu hlo hhi, ha]; rfl

/-! ### PPUSCROLL and PPUADDR -/

theorem writePpuScroll_first {s : State} (h : s.ppu.w = false) (v : Byte) :
    writePpuScroll v s = s.setPpu { s.ppu with scrollX := v, w := true } := by
  rw [writePpuScroll, h]; rfl

theorem writePpuScroll_second {s : State} (h : s.ppu.w = true) (v : Byte) :
    writePpuScroll v s = s.setPpu { s.ppu with scrollY := v, w := false } := if_pos h

theorem writePpuAddr_first {s : State} (h : s.ppu.w = false) (v : Byte) :
    writePpuAddr v s = s.setPpu { s.ppu with vaddr := pair v (lowByte s.ppu.vaddr), w := true } := by
  rw [writePpuAddr, h]; rfl

theorem writePpuAddr_second {s : State} (h : s.ppu.w = true) (v : Byte) :
    writePpuAddr v s = s.setPpu { s.ppu with vaddr := pair (highByte s.ppu.vaddr) v, w := false } := if_pos h

theorem busWrite_ppuScroll (v : Byte) (s : State) : busWrite 0x2005 v s = .ok () (writePpuScroll v s) := rfl

theorem busWrite_ppuAddr (v : Byte) (s : State) : busWrite 0x2006 v s = .ok () (writePpuAddr v s) := rfl

/-- Settles O40: each write is one of two, by the toggle, and a status read makes the next one a first write. -/
theorem scrollAndAddressShareTheToggle : Obligations.ScrollAndAddressShareTheToggle := by
  refine ⟨fun v s hw => ⟨?_, ?_⟩, fun v s hw => ⟨?_, ?_⟩, fun x y z r s s1 s2 s3 s4 _ _ hstatus haddr => ?_⟩
  · rw [busWrite_ppuScroll, writePpuScroll_first hw]; rfl
  · rw [busWrite_ppuAddr, writePpuAddr_first hw]; rfl
  · rw [busWrite_ppuScroll, writePpuScroll_second hw]; rfl
  · rw [busWrite_ppuAddr, writePpuAddr_second hw]; rfl
  · have hread : busRead 0x2002 s2 = .ok (statusRead s2) (readPpuStatus s2).2 := rfl
    cases hread.symm.trans hstatus
    rw [busWrite_ppuAddr, writePpuAddr_first rfl] at haddr
    cases haddr
    exact ⟨highByte_pair _ _, lowByte_pair _ _, rfl⟩

/-! ### PPUDATA -/

theorem vwrite_rbuf (a : Nat) (v : Byte) (s : State) : (vwrite a v s).ppu.rbuf = s.ppu.rbuf := by
  rw [vwrite_eq_storeVideo, storeVideo_frame]

/-- Below palette space a read answers the buffer and refills it (R185). -/
theorem readPpuData_buffered {s : State} (h : dataAddr s < 0x3F00) : readPpuData s =
    (s.ppu.rbuf, s.setPpu { s.ppu with rbuf := vread s (dataAddr s), vaddr := s.ppu.vaddr + vaddrStep s }) :=
  if_neg (Nat.not_le.2 h)

/-- In palette space a read answers the palette byte (R185). -/
theorem readPpuData_palette {s : State} (h : 0x3F00 ≤ dataAddr s) : readPpuData s =
    (vread s (dataAddr s), s.setPpu { s.ppu with vaddr := s.ppu.vaddr + vaddrStep s }) := if_pos h

theorem busRead_ppuData (s : State) : busRead 0x2007 s = .ok (readPpuData s).1 (readPpuData s).2 := rfl

/-- Settles O41: the read has its two cases at 0x3F00, and the pointer moves by the step of PPUCTRL in each access. -/
theorem ppuDataPort : Obligations.PpuDataPort := by
  refine fun v s => ⟨s.ppu.vaddr + vaddrStep s, ?_, fun hlow => ?_, fun hpal => ?_, _, rfl, rfl, vwrite_rbuf _ _ _⟩
  · rw [BitVec.toNat_add, vaddrStep_toNat]
  · rw [busRead_ppuData, readPpuData_buffered hlow]; rfl
  · rw [busRead_ppuData, readPpuData_palette hpal]; rfl

/-! ### OAMDATA -/

/-- Settles O43: an OAMDATA write is one memory write at the OAM address. -/
theorem oamDataPort : Obligations.OamDataPort := fun _ _ =>
  ⟨rfl, rfl, fun hoam => ⟨_, rfl, Memory.read_write_same' hoam, fun _ hk => Memory.read_write_other' hk hoam⟩⟩

/-! ### The events of a dot -/

/-- The four positions with an event and its effect there, and none anywhere else (R187). -/
theorem dotEvents_cases (s : State) :
    (s.ppu.scanline = 240 ∧ s.ppu.dot = 0 ∧ dotEvents s = vblankStart s) ∨
    (s.ppu.scanline = 261 ∧ s.ppu.dot = 1 ∧ dotEvents s = preRenderClear s) ∨
    (s.ppu.scanline ≤ 239 ∧ 1 ≤ s.ppu.dot ∧ s.ppu.dot ≤ 256 ∧
      dotEvents s = sprite0Check s.ppu.scanline (s.ppu.dot - 1) s) ∨
    (s.ppu.scanline ≤ 239 ∧ s.ppu.dot = 257 ∧ dotEvents s = overflowCheck s.ppu.scanline s) ∨
    (¬(s.ppu.scanline = 240 ∧ s.ppu.dot = 0) ∧ ¬(s.ppu.scanline = 261 ∧ s.ppu.dot = 1) ∧
      ¬(s.ppu.scanline ≤ 239 ∧ 1 ≤ s.ppu.dot ∧ s.ppu.dot ≤ 257) ∧ dotEvents s = s) := by
  unfold dotEvents
  dsimp only
  by_cases hvblank : s.ppu.scanline = 240 ∧ s.ppu.dot = 0
  · refine .inl ⟨hvblank.1, hvblank.2, ?_⟩
    rw [if_pos hvblank, if_neg (by omega), if_neg (by omega), if_neg (by omega)]
  rw [if_neg hvblank]
  by_cases hclear : s.ppu.scanline = 261 ∧ s.ppu.dot = 1
  · refine .inr (.inl ⟨hclear.1, hclear.2, ?_⟩)
    rw [if_pos hclear, if_neg (by omega), if_neg (by omega)]
  rw [if_neg hclear]
  by_cases hsprite : s.ppu.scanline ≤ 239 ∧ 1 ≤ s.ppu.dot ∧ s.ppu.dot ≤ 256
  · have ⟨hy, hlo, hhi⟩ := hsprite
    refine .inr (.inr (.inl ⟨hy, hlo, hhi, ?_⟩))
    rw [if_pos hsprite, if_neg (by omega)]
  rw [if_neg hsprite]
  by_cases hoverflow : s.ppu.scanline ≤ 239 ∧ s.ppu.dot = 257
  · exact .inr (.inr (.inr (.inl ⟨hoverflow.1, hoverflow.2, if_pos hoverflow⟩)))
  · exact .inr (.inr (.inr (.inr ⟨hvblank, hclear, by omega, if_neg hoverflow⟩)))

/-! ### What each event changes -/

theorem requestNmi_if (b : Bool) (s : State) :
    (if b then s.requestNmi else s) = s.setNmi (s.cpu.nmiPending || b) := by
  cases b with
  | false => rw [Bool.or_false]; rfl
  | true => rw [Bool.or_true]; rfl

theorem writePpuCtrl_eq (v : Byte) (s : State) : writePpuCtrl v s =
    (s.setPpu { s.ppu with ctrl := v }).setNmi
      (s.cpu.nmiPending || (!s.ppu.ctrl.getLsbD 7 && v.getLsbD 7 && s.ppu.vbl)) :=
  requestNmi_if _ _

theorem vblankStart_eq (s : State) : vblankStart s =
    renderFrame ((s.setPpu { s.ppu with vbl := true }).setNmi (s.cpu.nmiPending || s.ppu.ctrl.getLsbD 7)) :=
  congrArg renderFrame (requestNmi_if _ _)

theorem sprite0Check_eq (y x : Nat) (s : State) :
    sprite0Check y x s = s.setPpu { s.ppu with spr0 := s.ppu.spr0 || sprite0Hits s x y } := by
  unfold sprite0Check
  split
  · next h => rw [h, Bool.or_true]
  · next h => rw [Bool.eq_false_iff.2 h, Bool.or_false]; rfl

/-- Rendering is on and more than 8 sprites are on the line (R195). -/
def lineOverflows (s : State) (y : Nat) : Bool :=
  renderingEnabled s && decide (8 < ((List.range 64).filter (onLine s y)).length)

theorem overflowCheck_eq (y : Nat) (s : State) :
    overflowCheck y s = s.setPpu { s.ppu with ovf := s.ppu.ovf || lineOverflows s y } := by
  change (if lineOverflows s y then s.setPpu { s.ppu with ovf := true } else s) = _
  split
  · next h => rw [h, Bool.or_true]
  · next h => rw [Bool.eq_false_iff.2 h, Bool.or_false]; rfl

/-! ### What a PPU step does to the NMI latch and to each status bit -/

theorem ppuStep_nmiPending (s : State) : (ppuStep s).cpu.nmiPending =
    if s.ppu.scanline = 240 ∧ s.ppu.dot = 0 then s.cpu.nmiPending || s.ppu.ctrl.getLsbD 7 else s.cpu.nmiPending := by
  change (dotEvents s).cpu.nmiPending = _
  obtain ⟨hy, hd, he⟩ | ⟨hy, hd, he⟩ | ⟨hy, -, -, he⟩ | ⟨hy, -, he⟩ | ⟨hvblank, -, -, he⟩ := dotEvents_cases s <;>
    rw [he]
  · rw [vblankStart_eq, if_pos ⟨hy, hd⟩]; rfl
  · rw [if_neg (by omega)]; rfl
  · rw [sprite0Check_eq, if_neg (by omega)]; rfl
  · rw [overflowCheck_eq, if_neg (by omega)]; rfl
  · rw [if_neg hvblank]

theorem ppuStep_vbl (s : State) : (ppuStep s).ppu.vbl =
    if s.ppu.scanline = 261 ∧ s.ppu.dot = 1 then false
    else if s.ppu.scanline = 240 ∧ s.ppu.dot = 0 then true else s.ppu.vbl := by
  change (dotEvents s).ppu.vbl = _
  obtain ⟨hy, hd, he⟩ | ⟨hy, hd, he⟩ | ⟨hy, -, -, he⟩ | ⟨hy, -, he⟩ | ⟨hvblank, hclear, -, he⟩ := dotEvents_cases s <;>
    rw [he]
  · rw [vblankStart_eq, if_neg (by omega), if_pos ⟨hy, hd⟩]; rfl
  · rw [if_pos ⟨hy, hd⟩]; rfl
  · rw [sprite0Check_eq, if_neg (by omega), if_neg (by omega)]; rfl
  · rw [overflowCheck_eq, if_neg (by omega), if_neg (by omega)]; rfl
  · rw [if_neg hclear, if_neg hvblank]

theorem ppuStep_spr0 (s : State) : (ppuStep s).ppu.spr0 =
    if s.ppu.scanline = 261 ∧ s.ppu.dot = 1 then false
    else if s.ppu.scanline ≤ 239 ∧ 1 ≤ s.ppu.dot ∧ s.ppu.dot ≤ 256 then
      s.ppu.spr0 || sprite0Hits s (s.ppu.dot - 1) s.ppu.scanline
    else s.ppu.spr0 := by
  change (dotEvents s).ppu.spr0 = _
  obtain ⟨hy, hd, he⟩ | ⟨hy, hd, he⟩ | ⟨hy, hlo, hhi, he⟩ | ⟨hy, hd, he⟩ | ⟨-, hclear, hline, he⟩ := dotEvents_cases s <;>
    rw [he]
  · rw [vblankStart_eq, if_neg (by omega), if_neg (by omega)]; rfl
  · rw [if_pos ⟨hy, hd⟩]; rfl
  · rw [sprite0Check_eq, if_neg (by omega), if_pos ⟨hy, hlo, hhi⟩]; rfl
  · rw [overflowCheck_eq, if_neg (by omega), if_neg (by omega)]; rfl
  · rw [if_neg hclear, if_neg (by omega)]

theorem ppuStep_ovf (s : State) : (ppuStep s).ppu.ovf =
    if s.ppu.scanline = 261 ∧ s.ppu.dot = 1 then false
    else if s.ppu.scanline ≤ 239 ∧ s.ppu.dot = 257 then s.ppu.ovf || lineOverflows s s.ppu.scanline
    else s.ppu.ovf := by
  change (dotEvents s).ppu.ovf = _
  obtain ⟨hy, hd, he⟩ | ⟨hy, hd, he⟩ | ⟨hy, -, hhi, he⟩ | ⟨hy, hd, he⟩ | ⟨-, hclear, hline, he⟩ := dotEvents_cases s <;>
    rw [he]
  · rw [vblankStart_eq, if_neg (by omega), if_neg (by omega)]; rfl
  · rw [if_pos ⟨hy, hd⟩]; rfl
  · rw [sprite0Check_eq, if_neg (by omega), if_neg (by omega)]; rfl
  · rw [overflowCheck_eq, if_neg (by omega), if_pos ⟨hy, hd⟩]; rfl
  · rw [if_neg hclear, if_neg (by omega)]

/-! ### The picture is not changed by the events of a dot -/

theorem firstSprite_eq_findSome? (s : State) (x y : Nat) (l : List Nat) :
    firstSprite s x y l = l.findSome? fun i => sprPixelOf s i x y := by
  induction l with
  | nil => rfl
  | cons i rest ih =>
    rw [firstSprite, List.findSome?_cons, ih]
    cases sprPixelOf s i x y <;> rfl

theorem DotEffect.pixelOut_eq {s t : State} (h : DotEffect s t) (x y : Nat) : pixelOut t x y = pixelOut s x y := by
  have hspr : sprPixel t x y = sprPixel s x y := by
    rw [sprPixel, sprPixel, firstSprite_eq_findSome?, firstSprite_eq_findSome?]
    obtain ⟨_, _, _, _, _, rfl⟩ := h
    rfl
  have hbyte : pixelByte t x y = pixelByte s x y := by
    rw [pixelByte, hspr]
    obtain ⟨_, _, _, _, _, rfl⟩ := h
    rfl
  rw [pixelOut, hbyte]
  obtain ⟨_, _, _, _, _, rfl⟩ := h
  rfl

theorem DotEffect.frameImage_eq {s t : State} (h : DotEffect s t) : frameImage t = frameImage s := by
  simp only [frameImage, h.pixelOut_eq]

/-- At (240, 0) a frame more is counted, and its image is that of the state before the step. -/
theorem ppuStep_out_of_vblank {s : State} (hy : s.ppu.scanline = 240) (hd : s.ppu.dot = 0) :
    (ppuStep s).out = { s.out with frames := s.out.frames + 1, image := frameImage s } := by
  have he : dotEvents s = vblankStart s := by
    obtain ⟨-, -, he⟩ | h | h | h | h := dotEvents_cases s
    · exact he
    all_goals omega
  have heffect : DotEffect s
      ((s.setPpu { s.ppu with vbl := true }).setNmi (s.cpu.nmiPending || s.ppu.ctrl.getLsbD 7)) :=
    ⟨_, _, _, _, _, rfl⟩
  change (dotEvents s).out = _
  rw [he, vblankStart_eq, renderFrame, heffect.frameImage_eq]
  rfl

/-- Settles O44: a register write and the step at (240, 0) raise the latch, each under its own condition. -/
theorem nmiRequests : Obligations.NmiRequests := by
  refine ⟨fun v s => ?_, fun s hy hd => ⟨?_, ?_, ?_⟩, fun s hpos => ?_⟩
  · exact congrArg (Access.ok ()) (writePpuCtrl_eq v s)
  · rw [ppuStep_vbl, if_neg (by omega), if_pos ⟨hy, hd⟩]
  · rw [ppuStep_out_of_vblank hy hd]
  · rw [ppuStep_nmiPending, if_pos ⟨hy, hd⟩]
  · rw [ppuStep_nmiPending, if_neg hpos]

/-! ### Sprite 0 and overflow -/

/-- The conditions of R194. -/
theorem sprite0Hits_iff (s : State) (x y : Nat) : sprite0Hits s x y = true ↔
    s.ppu.mask.getLsbD 3 = true ∧ s.ppu.mask.getLsbD 4 = true ∧ x ≠ 255 ∧
      ¬(x < 8 ∧ (s.ppu.mask.getLsbD 1 = false ∨ s.ppu.mask.getLsbD 2 = false)) ∧
      bgPixel s x y ≠ 0 ∧ ∃ sp, sprPixelOf s 0 x y = some sp := by
  have hshown : (!(decide (x < 8) && (!bgLeft s || !sprLeft s))) = true ↔
      ¬(x < 8 ∧ (s.ppu.mask.getLsbD 1 = false ∨ s.ppu.mask.getLsbD 2 = false)) := by
    rw [Bool.not_eq_true', Bool.eq_false_iff, ne_eq, Bool.and_eq_true, decide_eq_true_iff, Bool.or_eq_true,
      Bool.not_eq_true', Bool.not_eq_true']
    rfl
  simp only [sprite0Hits, Bool.and_eq_true, decide_eq_true_iff, hshown, Option.isSome_iff_exists, and_assoc]
  rfl

theorem renderingEnabled_iff (s : State) :
    renderingEnabled s = true ↔ s.ppu.mask.getLsbD 3 = true ∨ s.ppu.mask.getLsbD 4 = true := Bool.or_eq_true_iff

/-- The conditions of R195. -/
theorem lineOverflows_iff (s : State) (y : Nat) : lineOverflows s y = true ↔
    (s.ppu.mask.getLsbD 3 = true ∨ s.ppu.mask.getLsbD 4 = true) ∧
      8 < ((List.range 64).filter fun i => decide ((Memory.read s.ppu.oam (4 * i)).toNat ≤ y ∧
        y < (Memory.read s.ppu.oam (4 * i)).toNat + (if s.ppu.ctrl.getLsbD 5 then 16 else 8))).length := by
  have honLine : onLine s y = fun i => decide ((Memory.read s.ppu.oam (4 * i)).toNat ≤ y ∧
      y < (Memory.read s.ppu.oam (4 * i)).toNat + (if s.ppu.ctrl.getLsbD 5 then 16 else 8)) :=
    funext fun i => (Bool.decide_and _ _).symm
  rw [lineOverflows, Bool.and_eq_true, renderingEnabled_iff, decide_eq_true_iff, honLine]

/-- Settles O45: the new value of each bit by the position of the step. -/
theorem statusBitsClearOnPreRender : Obligations.StatusBitsClearOnPreRender := by
  refine fun s => ⟨fun hy hd => ⟨?_, ?_, ?_⟩, fun hclear hvblank => ?_, fun hclear hset => ?_, fun hunset hset => ?_,
    fun hclear hset => ?_, fun hunset hset => ?_, fun x hy hd hx => ?_, fun hy hd => ?_⟩
  · rw [ppuStep_vbl, if_pos ⟨hy, hd⟩]
  · rw [ppuStep_spr0, if_pos ⟨hy, hd⟩]
  · rw [ppuStep_ovf, if_pos ⟨hy, hd⟩]
  · rw [ppuStep_vbl, if_neg hclear, if_neg hvblank]
  · rw [ppuStep_spr0, if_neg hclear, hset, Bool.true_or, ite_self]
  · rw [ppuStep_spr0, hunset] at hset
    split_ifs at hset with _ hpos
    obtain ⟨hy, hlo, hhi⟩ := hpos
    obtain ⟨hbg, hspr, -⟩ := (sprite0Hits_iff _ _ _).1 hset
    exact ⟨hy, hlo, hhi, hbg, hspr⟩
  · rw [ppuStep_ovf, if_neg hclear, hset, Bool.true_or, ite_self]
  · rw [ppuStep_ovf, hunset] at hset
    split_ifs at hset with _ hpos
    obtain ⟨hy, hd⟩ := hpos
    obtain ⟨hon, -⟩ := (lineOverflows_iff _ _).1 hset
    exact ⟨hy, hd, hon⟩
  · rw [ppuStep_spr0, if_neg (by omega), if_pos (by omega), Bool.or_eq_true, hd, Nat.add_sub_cancel, sprite0Hits_iff]
  · rw [ppuStep_ovf, if_neg (by omega), if_pos ⟨hy, hd⟩, Bool.or_eq_true, lineOverflows_iff]

/-! ### The delivered image -/

theorem length_rows {α : Type} (f : Nat → Nat → α) (w n : Nat) :
    ((List.range n).flatMap fun y => (List.range w).map fun x => f x y).length = w * n := by
  simp [List.length_flatMap, Nat.mul_comm]

/-- Row-major order: the entry of column `x` in row `y` stands at place `w * y + x`. -/
theorem getElem?_rows {α : Type} (f : Nat → Nat → α) {w x y : Nat} (hx : x < w) : ∀ {n : Nat}, y < n →
    ((List.range n).flatMap fun y => (List.range w).map fun x => f x y)[w * y + x]? = some (f x y)
  | n + 1, hy => by
    rw [List.range_succ, List.flatMap_append, List.flatMap_singleton]
    obtain hlt | rfl := Nat.lt_succ_iff_lt_or_eq.1 hy
    · have hplace : w * y + x < w * n := calc
        w * y + x < w * (y + 1) := by rw [Nat.mul_succ]; omega
        _ ≤ w * n := Nat.mul_le_mul_left w hlt
      rw [List.getElem?_append_left (by rwa [length_rows]), getElem?_rows f hx hlt]
    · rw [List.getElem?_append_right (by rw [length_rows]; omega), length_rows, Nat.add_sub_cancel_left,
        List.getElem?_map, List.getElem?_range hx]
      rfl

/-! ### Tiles -/

/-- R191's pixel of the two planes is the number the claims use. -/
theorem patternPixel_eq_tilePixel (s : State) (base tile row b : Nat) :
    patternPixel s base tile row b = tilePixel s base tile row b := by
  rw [patternPixel, tilePixel, Nat.mul_comm tile 16]
  rfl

theorem tilePixel_lt (s : State) (base tile row b : Nat) : tilePixel s base tile row b < 4 := by
  have hhi := Bool.toNat_lt ((vread s (base + 16 * tile + row + 8)).getLsbD b)
  have hlo := Bool.toNat_lt ((vread s (base + 16 * tile + row)).getLsbD b)
  rw [tilePixel]
  omega

/-! ### Hidden and shown layers -/

/-- A layer is hidden where it is off, and in the 8 left columns unless its own bit shows it there (R178). -/
theorem layerHidden_iff (on left : Bool) (x : Nat) :
    (!on || (decide (x < 8) && !left)) = true ↔ on = false ∨ (x < 8 ∧ left = false) := by
  simp

theorem layer_not_hidden {on left : Bool} {x : Nat} (hon : on = true) (hleft : 8 ≤ x ∨ left = true) :
    ¬(!on || (decide (x < 8) && !left)) = true := by
  rw [layerHidden_iff, hon]
  rintro (h | ⟨hx, rfl⟩)
  · cases h
  · exact hleft.elim (by omega) nofun

/-! ### The background -/

/-- The nametable of a scrolled position: 256 columns by 240 rows each, two by two (R191). -/
def bgTable (wx wy : Nat) : Nat := 0x2000 + 0x400 * (wx / 256) + 0x800 * (wy / 240)

/-- The colour of the tile that the nametable names there. -/
def bgColour (s : State) (wx wy : Nat) : Nat :=
  tilePixel s (if s.ppu.ctrl.getLsbD 4 then 0x1000 else 0)
    (vread s (bgTable wx wy + 32 * (wy % 240 / 8) + wx % 256 / 8)).toNat (wy % 240 % 8) (7 - wx % 8)

/-- The byte with the sub-palettes of the 32 x 32 block there. -/
def bgPaletteByte (s : State) (wx wy : Nat) : Byte :=
  vread s (bgTable wx wy + 0x3C0 + 8 * (wy % 240 / 32) + wx % 256 / 32)

theorem bgAt_eq (s : State) (wx wy : Nat) : bgAt s wx wy =
    if bgColour s wx wy = 0 then 0
    else 4 * ((bgPaletteByte s wx wy).toNat / 4 ^ (2 * (wy % 240 / 16 % 2) + wx % 256 / 16 % 2) % 4) + bgColour s wx wy := by
  have htable : 0x2000 + 0x400 * (wx / 256 + 2 * (wy / 240)) = bgTable wx wy := by rw [bgTable]; omega
  have hquadrant : wy % 240 / 8 % 4 / 2 * 2 + wx % 256 / 8 % 4 / 2 =
      2 * (wy % 240 / 16 % 2) + wx % 256 / 16 % 2 := by omega
  have hcolour : patternPixel s (if bitOf s.ppu.ctrl 4 then 0x1000 else 0)
      (vread s (bgTable wx wy + wy % 240 / 8 * 32 + wx % 256 / 8)).toNat (wy % 240 % 8) (7 - wx % 256 % 8) =
      bgColour s wx wy := by
    rw [patternPixel_eq_tilePixel, Nat.mul_comm (wy % 240 / 8) 32, show wx % 256 % 8 = wx % 8 by omega]
    rfl
  have hpalette : vread s (bgTable wx wy + 0x3C0 + wy % 240 / 8 / 4 * 8 + wx % 256 / 8 / 4) =
      bgPaletteByte s wx wy := by
    rw [bgPaletteByte, Nat.mul_comm 8, Nat.div_div_eq_div_mul, Nat.div_div_eq_div_mul]
  unfold bgAt
  dsimp only
  rw [htable, hcolour, hpalette, hquadrant, Nat.pow_mul, Nat.mul_comm 4]

theorem bgAt_lt (s : State) (wx wy : Nat) : bgAt s wx wy < 16 := by
  have hcolour : bgColour s wx wy < 4 := tilePixel_lt s _ _ _ _
  rw [bgAt_eq]
  split <;> omega

theorem bgPixel_hidden {s : State} {x : Nat}
    (h : s.ppu.mask.getLsbD 3 = false ∨ (x < 8 ∧ s.ppu.mask.getLsbD 1 = false)) (y : Nat) : bgPixel s x y = 0 :=
  if_pos ((layerHidden_iff _ _ _).2 h)

theorem mul_toNat_eq_ite (n : Nat) (b : Bool) : n * b.toNat = if b then n else 0 := by
  cases b with
  | false => rfl
  | true => exact Nat.mul_one n

theorem bgPixel_shown {s : State} {x : Nat} (hon : s.ppu.mask.getLsbD 3 = true)
    (hleft : 8 ≤ x ∨ s.ppu.mask.getLsbD 1 = true) (y : Nat) : bgPixel s x y =
    bgAt s ((x + s.ppu.scrollX.toNat + (if s.ppu.ctrl.getLsbD 0 then 256 else 0)) % 512)
      ((y + s.ppu.scrollY.toNat + (if s.ppu.ctrl.getLsbD 1 then 240 else 0)) % 480) := by
  rw [bgPixel, if_neg (layer_not_hidden (on := bgEnabled s) (left := bgLeft s) hon hleft), mul_toNat_eq_ite,
    mul_toNat_eq_ite]
  rfl

theorem bgPixel_lt (s : State) (x y : Nat) : bgPixel s x y < 16 := by
  unfold bgPixel
  split
  · decide
  · exact bgAt_lt s _ _

/-! ### One sprite -/

/-- The colour at bit `b` of row `row` of a sprite of either height: an 8 x 16 one is a pair of tiles, one over the other,
in the table of tile bit 0 (R192). -/
def spriteTilePixel (s : State) (tile row b : Nat) : Nat :=
  if s.ppu.ctrl.getLsbD 5 then
    tilePixel s (if tile % 2 = 1 then 0x1000 else 0) (2 * (tile / 2) + row / 8) (row % 8) b
  else tilePixel s (if s.ppu.ctrl.getLsbD 3 then 0x1000 else 0) tile row b

/-- The colour of sprite `i` at column `dx` and row `dy` of its box, after the flips (R192). -/
def spriteColour (s : State) (i dx dy : Nat) : Nat :=
  spriteTilePixel s (oamByte s i 1).toNat
    (if (oamByte s i 2).getLsbD 7 then spriteHeight s - 1 - dy else dy)
    (if (oamByte s i 2).getLsbD 6 then dx else 7 - dx)

/-- Column `x` of line `y` lies outside the box of sprite `i`, or the sprite is not shown at all (R192). -/
def OutsideSprite (s : State) (i x y : Nat) : Prop :=
  239 ≤ (oamByte s i 0).toNat ∨ y ≤ (oamByte s i 0).toNat ∨ (oamByte s i 0).toNat + spriteHeight s < y ∨
    x < (oamByte s i 3).toNat ∨ (oamByte s i 3).toNat + 8 ≤ x

theorem sprPixelOf_outside {s : State} {i x y : Nat} (h : OutsideSprite s i x y) : sprPixelOf s i x y = none := by
  refine if_pos ?_
  unfold OutsideSprite at h
  omega

theorem spriteColour_lt (s : State) (i dx dy : Nat) : spriteColour s i dx dy < 4 := by
  unfold spriteColour spriteTilePixel
  split <;> exact tilePixel_lt s _ _ _ _

theorem spriteHeight_tall {s : State} (h : s.ppu.ctrl.getLsbD 5 = true) : spriteHeight s = 16 := if_pos h

theorem spriteHeight_short {s : State} (h : ¬s.ppu.ctrl.getLsbD 5 = true) : spriteHeight s = 8 := if_neg h

theorem spriteHeight_le (s : State) : spriteHeight s ≤ 16 := by
  unfold spriteHeight
  split <;> decide

/-- R192's two tile fetches are the one of the claims' numbers. -/
theorem patternPixel_of_sprite (s : State) (tile : Nat) {row : Nat} (hrow : row < 16) (b : Nat) :
    (if spriteHeight s = 8 then patternPixel s (if bitOf s.ppu.ctrl 3 then 0x1000 else 0) tile row b
      else patternPixel s (tile % 2 * 0x1000) (tile - tile % 2 + (if 8 ≤ row then 1 else 0)) (row % 8) b) =
      spriteTilePixel s tile row b := by
  rw [patternPixel_eq_tilePixel, patternPixel_eq_tilePixel, spriteTilePixel]
  by_cases h : s.ppu.ctrl.getLsbD 5 = true
  · have htable : tile % 2 * 0x1000 = if tile % 2 = 1 then 0x1000 else 0 := by split <;> omega
    have htile : tile - tile % 2 + (if 8 ≤ row then 1 else 0) = 2 * (tile / 2) + row / 8 := by split <;> omega
    rw [spriteHeight_tall h, if_neg (by decide), if_pos h, htable, htile]
  · rw [spriteHeight_short h, if_pos rfl, if_neg h]
    rfl

theorem sprPixelOf_inside {s : State} {i dx dy : Nat} (htop : (oamByte s i 0).toNat < 239) (hdx : dx < 8)
    (hdy : dy < spriteHeight s) :
    sprPixelOf s i ((oamByte s i 3).toNat + dx) ((oamByte s i 0).toNat + 1 + dy) =
      if spriteColour s i dx dy = 0 then none
      else some ⟨16 + 4 * ((oamByte s i 2).toNat % 4) + spriteColour s i dx dy, (oamByte s i 2).getLsbD 5⟩ := by
  have hrow : (if bitOf (oamByte s i 2) 7 then spriteHeight s - 1 - dy else dy) < 16 := by
    have := spriteHeight_le s
    split <;> omega
  unfold sprPixelOf
  dsimp only
  rw [if_neg (by omega), Nat.add_sub_cancel_left, Nat.add_sub_cancel_left, patternPixel_of_sprite s _ hrow,
    Nat.mul_comm _ 4]
  rfl

/-- A sprite's pixel is the one of some place inside its box, and not colour 0. -/
theorem sprPixelOf_eq_some {s : State} {i x y : Nat} {sp : SpritePixel} (h : sprPixelOf s i x y = some sp) :
    ∃ k, 0 < k ∧ k < 4 ∧ sp.idx = 16 + 4 * ((oamByte s i 2).toNat % 4) + k := by
  by_cases hout : OutsideSprite s i x y
  · rw [sprPixelOf_outside hout] at h
    cases h
  · unfold OutsideSprite at hout
    obtain ⟨dx, rfl⟩ := Nat.exists_eq_add_of_le (show (oamByte s i 3).toNat ≤ x by omega)
    obtain ⟨dy, rfl⟩ := Nat.exists_eq_add_of_le (show (oamByte s i 0).toNat + 1 ≤ y by omega)
    rw [sprPixelOf_inside (by omega) (by omega) (by omega)] at h
    split at h
    · cases h
    · next hk =>
      cases h
      exact ⟨_, Nat.pos_of_ne_zero hk, spriteColour_lt s i dx dy, rfl⟩

/-! ### The sprite shown -/

/-- Among the first `n` sprites the opaque one of lowest index wins (R192). -/
theorem firstSprite_range_eq_some_iff (s : State) (x y n : Nat) (sp : SpritePixel) :
    firstSprite s x y (List.range n) = some sp ↔
      ∃ i, i < n ∧ sprPixelOf s i x y = some sp ∧ ∀ j, j < i → sprPixelOf s j x y = none := by
  rw [firstSprite_eq_findSome?]
  induction n with
  | zero => simp
  | succ n ih =>
    rw [List.range_succ, List.findSome?_append, Option.or_eq_some_iff, ih, List.findSome?_eq_none_iff]
    simp only [List.mem_range, List.findSome?_singleton]
    constructor
    · rintro (⟨i, hi, h⟩ | ⟨hnone, h⟩)
      · exact ⟨i, by omega, h⟩
      · exact ⟨n, by omega, h, hnone⟩
    · rintro ⟨i, hi, h, hnone⟩
      obtain hlt | rfl := Nat.lt_succ_iff_lt_or_eq.1 hi
      · exact .inl ⟨i, hlt, h, hnone⟩
      · exact .inr ⟨hnone, h⟩

theorem sprPixel_hidden {s : State} {x : Nat}
    (h : s.ppu.mask.getLsbD 4 = false ∨ (x < 8 ∧ s.ppu.mask.getLsbD 2 = false)) (y : Nat) : sprPixel s x y = none :=
  if_pos ((layerHidden_iff _ _ _).2 h)

theorem sprPixel_shown {s : State} {x : Nat} (hon : s.ppu.mask.getLsbD 4 = true)
    (hleft : 8 ≤ x ∨ s.ppu.mask.getLsbD 2 = true) (y : Nat) :
    sprPixel s x y = firstSprite s x y (List.range 64) := if_neg (layer_not_hidden hon hleft)

/-- A sprite's palette offset lies in one of the four sprite palettes and is not an entry 0 (R192). -/
theorem sprPixel_idx {s : State} {x y : Nat} {sp : SpritePixel} (h : sprPixel s x y = some sp) :
    16 < sp.idx ∧ sp.idx < 32 ∧ sp.idx % 4 ≠ 0 := by
  unfold sprPixel at h
  split at h
  · cases h
  · obtain ⟨i, -, hi, -⟩ := (firstSprite_range_eq_some_iff s x y 64 sp).1 h
    obtain ⟨k, hpos, hlt, hidx⟩ := sprPixelOf_eq_some hi
    omega

/-! ### The pixel shown -/

/-- A palette entry is the video byte at its address in palette space (R53, R55). -/
theorem paletteAt_eq_vread (s : State) {k : Nat} (hk : k < 32) : paletteAt s k = vread s (0x3F00 + k) := by
  rw [vread_eq_videoByte, videoCell_palette (by omega), paletteAt, ← palIndex_mod, Nat.mod_eq_of_lt (by omega)]
  rfl

section
variable {s : State} (hon : s.ppu.mask.getLsbD 3 = true ∨ s.ppu.mask.getLsbD 4 = true) {x y : Nat}
include hon

/-- Where no sprite is shown, the background's byte or the backdrop (R193). -/
theorem pixelByte_without_sprite (hsp : sprPixel s x y = none) : pixelByte s x y =
    if bgPixel s x y = 0 then Memory.read s.ppu.palette 0 else vread s (0x3F00 + bgPixel s x y) := by
  have hbg : bgPixel s x y < 32 := (bgPixel_lt s x y).trans (by decide)
  rw [pixelByte, (renderingEnabled_iff s).2 hon, hsp, ← paletteAt_eq_vread s hbg]
  exact ite_not ..

/-- Where a sprite is shown, its byte or that of an opaque background before it (R193). -/
theorem pixelByte_with_sprite {sp : SpritePixel} (hsp : sprPixel s x y = some sp) : pixelByte s x y =
    if bgPixel s x y = 0 ∨ sp.behind = false then vread s (0x3F00 + sp.idx)
    else vread s (0x3F00 + bgPixel s x y) := by
  have hbg : bgPixel s x y < 32 := (bgPixel_lt s x y).trans (by decide)
  obtain ⟨-, hidx, -⟩ := sprPixel_idx hsp
  rw [pixelByte, (renderingEnabled_iff s).2 hon, hsp, ← paletteAt_eq_vread s hidx, ← paletteAt_eq_vread s hbg]
  rfl

end

theorem pixelByte_forced_blank {s : State} (hbg : s.ppu.mask.getLsbD 3 = false) (hspr : s.ppu.mask.getLsbD 4 = false)
    (x y : Nat) : pixelByte s x y = Memory.read s.ppu.palette 0 := by
  have hoff : renderingEnabled s = false := Bool.or_eq_false_iff.2 ⟨hbg, hspr⟩
  rw [pixelByte, hoff]
  rfl

/-- Settles O46: the image is the list of `pixelOut`, whose parts are the fetches of R191 and R192 in the claim's terms. -/
theorem frameIsDelivered : Obligations.FrameIsDelivered := by
  refine ⟨fun s hy hd => ?_, fun s x y => ⟨pixelByte s x y, rfl, fun hbg hspr => pixelByte_forced_blank hbg hspr x y,
    fun hon => ⟨fun hbg hsp => ?_, fun hbg hsp => ?_, fun sp hsp => ⟨fun hfront => ?_, fun hbg hbehind => ?_⟩⟩,
    bgPixel_lt s x y, fun sp => sprPixel_idx⟩, fun s x y => ⟨fun h => bgPixel_hidden h y, fun hon hleft => ?_⟩,
    fun s i x y => ⟨_, _, _, _, _, rfl, rfl, rfl, rfl, rfl, sprPixelOf_outside, fun dx dy htop hdx hdy hx hy => ?_⟩,
    fun s x y => ⟨fun h => sprPixel_hidden h y, fun hon hleft sp => ?_⟩⟩
  · rw [ppuStep_out_of_vblank hy hd]
    exact ⟨rfl, length_rows _ 256 240, fun x y hx hy => getElem?_rows _ hx hy⟩
  · rw [pixelByte_without_sprite hon hsp, if_pos hbg]
  · rw [pixelByte_without_sprite hon hsp, if_neg hbg]
  · rw [pixelByte_with_sprite hon hsp, if_pos hfront]
  · rw [pixelByte_with_sprite hon hsp, if_neg (by simp [hbg, hbehind])]
  · exact ⟨_, _, _, _, _, rfl, rfl, rfl, rfl, rfl, (bgPixel_shown hon hleft y).trans (bgAt_eq s _ _)⟩
  · subst hx hy
    exact ⟨_, _, spriteColour s i dx dy, rfl, rfl, rfl, sprPixelOf_inside htop hdx hdy⟩
  · rw [sprPixel_shown hon hleft, firstSprite_range_eq_some_iff]

end Sys2Proof.Machine
end

section
/-! PROOFS. Family 62_apu.md: the length counters (R199, R201, R206), the status register (R200), the frame sequencer
(R203, R204), the sweep unit (R208) and the DMC's memory reader (R217). -/

namespace Sys2Proof.Machine

/-! ### The audio registers on the bus -/

theorem busRead_apuStatus (s : State) : busRead 0x4015 s = .ok (readApuStatus s).1 (readApuStatus s).2 := rfl

theorem busWrite_enable (v : Byte) (s : State) : busWrite 0x4015 v s = .ok () (s.setApu (enableWrite v s.apu)) := rfl

theorem busWrite_frameCounter (v : Byte) (s : State) :
    busWrite 0x4017 v s = .ok () (s.setApu (frameCounterWrite v s.apu)) := rfl

theorem busWrite_channel {a : Addr} {r : Nat} (ha : a.toNat = 0x4000 + r) (hr : r < 0x14) (v : Byte) (s : State) :
    busWrite a v s = .ok () (s.setApu (channelWrite r v s.apu)) := by
  rw [busWrite, if_neg (by omega), if_neg (by omega), if_pos (by omega)]
  unfold ioWrite
  split
  · omega
  · omega
  · omega
  · omega
  · rw [ha, Nat.add_sub_cancel_left]

/-! ### The sweep unit -/

/-- The shifted period of R208 as a number. -/
def shiftedPeriod (p : Pulse) : Nat := p.timerPeriod.toNat / 2 ^ p.sweepShift.toNat

theorem toNat_ushiftRight_period (p : Pulse) : (p.timerPeriod >>> p.sweepShift.toNat).toNat = shiftedPeriod p := by
  rw [BitVec.toNat_ushiftRight, Nat.shiftRight_eq_div_pow, shiftedPeriod]

theorem sweepTarget_eq (id : PulseId) (p : Pulse) : sweepTarget id p =
    if p.sweepNeg then
      (if id = .p1 then (p.timerPeriod.toNat : Int) - shiftedPeriod p - 1 else p.timerPeriod.toNat - shiftedPeriod p)
    else p.timerPeriod.toNat + shiftedPeriod p := by
  unfold sweepTarget
  rw [toNat_ushiftRight_period]
  cases p.sweepNeg <;> cases id <;> rfl

/-- Without negation a target is never below the period, so only the sum can be out of range (R208). -/
theorem pulseMuted_iff (id : PulseId) (p : Pulse) : pulseMuted id p = true ↔
    p.timerPeriod.toNat < 8 ∨ (p.sweepNeg = false ∧ 0x7FF < p.timerPeriod.toNat + shiftedPeriod p) := by
  rw [pulseMuted, sweepTarget_eq]
  cases p.sweepNeg with
  | true => simp
  | false => simp; omega

/-- A shift of 1 or more at least halves the period. -/
theorem two_mul_shiftedPeriod_le {p : Pulse} (h : p.sweepShift ≠ 0) : 2 * shiftedPeriod p ≤ p.timerPeriod.toNat := by
  have hpos : p.sweepShift.toNat ≠ 0 := fun e => h (BitVec.eq_of_toNat_eq e)
  have hpow : 2 ^ 1 ≤ 2 ^ p.sweepShift.toNat := Nat.pow_le_pow_right (by decide) (by omega)
  exact (Nat.mul_le_mul_right _ hpow).trans (Nat.mul_div_le _ _)

/-- The target of an unmuted channel with a shift is a period: 11 bits hold it exactly (R208). -/
theorem toNat_ofInt_sweepTarget {id : PulseId} {p : Pulse} (hshift : p.sweepShift ≠ 0) (hm : pulseMuted id p = false) :
    ((BitVec.ofInt 11 (sweepTarget id p)).toNat : Int) = sweepTarget id p := by
  obtain ⟨hlow, hhigh⟩ := not_or.1 (mt (pulseMuted_iff id p).2 (Bool.eq_false_iff.1 hm))
  have hhalf := two_mul_shiftedPeriod_le hshift
  have hlt := p.timerPeriod.isLt
  have hrange : 0 ≤ sweepTarget id p ∧ sweepTarget id p < 2048 := by
    rw [sweepTarget_eq]
    split_ifs with hneg hid
    · omega
    · omega
    · have hsum : ¬0x7FF < p.timerPeriod.toNat + shiftedPeriod p := fun h => hhigh ⟨Bool.eq_false_iff.2 hneg, h⟩
      omega
  rw [BitVec.toNat_ofInt]
  omega

/-- All that a sweep clock changes: the period, the divider and the reload request (R208). -/
theorem sweepClock_eq (id : PulseId) (p : Pulse) : sweepClock id p =
    { p with
      timerPeriod :=
        if p.sweepDiv = 0 ∧ p.sweepEn = true ∧ p.sweepShift ≠ 0 ∧ pulseMuted id p = false then
          BitVec.ofInt 11 (sweepTarget id p)
        else p.timerPeriod
      sweepDiv := if p.sweepDiv = 0 ∨ p.sweepReload = true then p.sweepPeriod else p.sweepDiv - 1
      sweepReload := false } := by
  unfold sweepClock
  dsimp only
  by_cases hreload : p.sweepDiv = 0 ∨ p.sweepReload = true
  · rw [if_pos hreload, if_pos hreload]
    split <;> rfl
  · have hrequest : p.sweepReload = false := Bool.eq_false_iff.2 (not_or.1 hreload).2
    rw [if_neg hreload, if_neg hreload, ← hrequest]
    split <;> rfl

/-- An expired or muted channel is silent (R209). -/
theorem pulseLevel_silent {id : PulseId} {p : Pulse} (h : p.len = 0 ∨ pulseMuted id p = true) : pulseLevel id p = 0 :=
  if_pos (h.imp_right .inl)

/-- Settles O50: the target fits 11 bits whenever it is taken, so the period moves exactly to it. -/
theorem sweepRetargetsOrMutes : Obligations.SweepRetargetsOrMutes := by
  intro id p
  refine ⟨_, _, rfl, rfl, ?_, ?_, ?_, ?_, ?_, pulseLevel_silent⟩
  · exact_mod_cast pulseMuted_iff id p
  · rw [sweepClock_eq]
    by_cases h : p.sweepDiv = 0 ∧ p.sweepEn = true ∧ p.sweepShift ≠ 0 ∧ pulseMuted id p = false
    · rw [if_pos h, if_pos h]
      obtain ⟨-, -, hshift, hm⟩ := h
      exact (toNat_ofInt_sweepTarget hshift hm).trans (sweepTarget_eq id p)
    · rw [if_neg h, if_neg h]
  · rw [sweepClock_eq]
  · rw [sweepClock_eq]
  · exact sweepClock_len id p

/-! ### The status register -/

theorem bitByte_bit (b : Bool) {k : Nat} (hk : k < 8) : (bitByte b).getLsbD k = (decide (k = 0) && b) := by
  rw [← bitByte_shiftLeft_bit b 0 hk, BitVec.shiftLeft_zero]

theorem and_one_eq_bitByte (b : Byte) : b &&& 1 = bitByte (b.getLsbD 0) := by
  rw [BitVec.ofNat_eq_ofNat, BitVec.and_one_eq_setWidth_ofBool_getLsbD]
  cases b.getLsbD 0 <;> rfl

/-- The status byte has one flag at each bit (R200). -/
theorem apuStatus_bit (a : Apu) (o : Byte) {k : Nat} (hk : k < 8) : (apuStatus a o).getLsbD k =
    if k = 7 then a.dmc.dmcIrq else if k = 6 then a.frameIrq else if k = 5 then o.getLsbD 0
    else if k = 4 then decide (a.dmc.bytesLeft ≠ 0) else if k = 3 then decide (a.noise.len ≠ 0)
    else if k = 2 then decide (a.tri.len ≠ 0) else if k = 1 then decide (a.p2.len ≠ 0) else decide (a.p1.len ≠ 0) := by
  rw [apuStatus, and_one_eq_bitByte]
  simp only [BitVec.getLsbD_or, bitByte_bit _ hk, bitByte_shiftLeft_bit _ _ hk, bne, beq_eq_decide, ← decide_not]
  interval_cases k <;> simp

/-- Settles O49: the read is one bus read, whose byte is known bit by bit. -/
theorem apuStatusRead : Obligations.ApuStatusRead := fun s =>
  ⟨_, busRead_apuStatus s, apuStatus_bit _ _ (by decide), apuStatus_bit _ _ (by decide),
    apuStatus_bit _ _ (by decide), apuStatus_bit _ _ (by decide), apuStatus_bit _ _ (by decide),
    apuStatus_bit _ _ (by decide), apuStatus_bit _ _ (by decide), apuStatus_bit _ _ (by decide)⟩

/-! ### The frame sequencer -/

/-- This step clocks a half frame: the second event of a sequence or its last one (R203). -/
def atHalfFrame (a : Apu) : Bool :=
  decide (a.fsCounter + 1 = 14913 ∨ a.fsCounter + 1 = if a.fsMode then 37281 else 29829)

/-- This step is the last event of a 4-step sequence whose IRQ is not inhibited (R203). -/
def atFrameIrq (a : Apu) : Bool := !a.fsMode && decide (a.fsCounter + 1 = 29829) && !a.irqInhibit

/-- All that one sequencer step can do (R203): the half-frame clocks, with the IRQ flag or without, the quarter-frame
clocks alone, or a new count alone. -/
theorem frameSeqStep_cases {P : Apu × Bool → Prop} (a : Apu)
    (hirq : atHalfFrame a = true → atFrameIrq a = true →
      P (setFrameIrq (halfFrame (quarterFrame { a with fsCounter := a.fsCounter + 1 }))))
    (hhalf : atHalfFrame a = true → atFrameIrq a = false →
      P (halfFrame (quarterFrame { a with fsCounter := a.fsCounter + 1 }), false))
    (hquarter : atHalfFrame a = false → atFrameIrq a = false →
      P (quarterFrame { a with fsCounter := a.fsCounter + 1 }, false))
    (hcount : atHalfFrame a = false → atFrameIrq a = false → ∀ n, P ({ a with fsCounter := n }, false)) :
    P (frameSeqStep a) := by
  unfold frameSeqStep
  unfold atHalfFrame atFrameIrq at hirq hhalf hquarter hcount
  cases hmode : a.fsMode with
  | true =>
    simp only [hmode, if_true, Bool.not_true, Bool.false_and, decide_eq_true_eq, decide_eq_false_iff_not, forall_const]
      at hirq hhalf hquarter hcount ⊢
    unfold fiveStep
    dsimp only
    split_ifs with h1 h2 h3 h4 h5
    · exact hquarter (by omega)
    · exact hhalf (.inl h2)
    · exact hquarter (by omega)
    · exact hhalf (.inr h4)
    · exact hcount (by omega) 0
    · exact hcount (by omega) _
  | false =>
    simp only [hmode, Bool.false_eq_true, if_false, Bool.not_false, Bool.true_and, Bool.and_eq_true, Bool.not_eq_true',
      Bool.and_eq_false_iff, Bool.not_eq_false', decide_eq_true_eq, decide_eq_false_iff_not]
      at hirq hhalf hquarter hcount ⊢
    unfold fourStep
    dsimp only
    split_ifs with h1 h2 h3 h4 hinhibit h5
    · exact hquarter (by omega) (by omega)
    · exact hhalf (.inl h2) (by omega)
    · exact hquarter (by omega) (by omega)
    · exact hhalf (.inr h4) (.inr hinhibit)
    · exact hirq (.inr h4) ⟨h4, Bool.eq_false_iff.2 hinhibit⟩
    · exact hcount (by omega) (by omega) 0
    · exact hcount (by omega) (by omega) _

/-- The flag is set by the last event of a 4-step sequence without inhibit, and an IRQ requested if that changes it. -/
theorem frameSeqStep_irq (a : Apu) :
    (frameSeqStep a).1.frameIrq = (a.frameIrq || atFrameIrq a) ∧
    (frameSeqStep a).2 = (!a.frameIrq && (frameSeqStep a).1.frameIrq) := by
  refine frameSeqStep_cases (P := fun q => q.1.frameIrq = (a.frameIrq || atFrameIrq a) ∧
    q.2 = (!a.frameIrq && q.1.frameIrq)) a (fun _ h => ?_) (fun _ h => ?_) (fun _ h => ?_) (fun _ h n => ?_) <;> rw [h]
  · exact ⟨(Bool.or_true _).symm, (Bool.and_true _).symm⟩
  all_goals exact ⟨(Bool.or_false _).symm, (Bool.not_and_self _).symm⟩

/-! ### Length counters -/

theorem toNat_lengthClock (halt : Bool) (len : BitVec 8) :
    (lengthClock halt len).toNat = len.toNat - if !halt then 1 else 0 := by
  unfold lengthClock
  cases halt with
  | true => rfl
  | false =>
    by_cases h : len = 0
    · subst h; rfl
    · rw [Bool.not_false, Bool.true_and, bne_iff_ne.2 h, if_pos rfl, if_pos rfl]
      bv_omega

theorem envelopeClock_lenHalt (e : Envelope) : (envelopeClock e).lenHalt = e.lenHalt := by
  unfold envelopeClock
  split_ifs <;> rfl

theorem linearClock_length (t : Triangle) : (linearClock t).len = t.len ∧ (linearClock t).linCtrl = t.linCtrl := by
  unfold linearClock
  dsimp only
  split_ifs <;> exact ⟨rfl, rfl⟩

theorem quarterFrame_lengthsClocked (a : Apu) : LengthsClocked false a (quarterFrame a) :=
  ⟨rfl, rfl, congrArg BitVec.toNat (linearClock_length a.tri).1, rfl⟩

/-- A half frame comes with a quarter frame's clocks, which move no length counter and no halt flag. -/
theorem halfFrame_quarterFrame_lengthsClocked (a : Apu) : LengthsClocked true a (halfFrame (quarterFrame a)) := by
  have henv := envelopeClock_lenHalt
  obtain ⟨hlen, hctrl⟩ := linearClock_length a.tri
  unfold LengthsClocked
  simp only [Bool.true_and]
  refine ⟨?_, ?_, ?_, ?_⟩
  · rw [← henv a.p1.env, ← toNat_lengthClock]
    exact congrArg BitVec.toNat (pulseHalf_len .p1 (pulseQuarter a.p1))
  · rw [← henv a.p2.env, ← toNat_lengthClock]
    exact congrArg BitVec.toNat (pulseHalf_len .p2 (pulseQuarter a.p2))
  · rw [← hctrl, ← hlen, ← toNat_lengthClock]
    rfl
  · rw [← henv a.noise.env, ← toNat_lengthClock]
    rfl

theorem frameSeqStep_lengthsClocked (a : Apu) : LengthsClocked (atHalfFrame a) a (frameSeqStep a).1 := by
  refine frameSeqStep_cases (P := fun q => LengthsClocked (atHalfFrame a) a q.1) a (fun h _ => ?_) (fun h _ => ?_)
    (fun h _ => ?_) (fun h _ n => ?_) <;> rw [h]
  · exact halfFrame_quarterFrame_lengthsClocked _
  · exact halfFrame_quarterFrame_lengthsClocked _
  · exact quarterFrame_lengthsClocked _
  · exact ⟨rfl, rfl, rfl, rfl⟩

theorem frameCounterWrite_lengthsClocked (v : Byte) (a : Apu) :
    LengthsClocked (v.getLsbD 7) a (frameCounterWrite v a) := by
  unfold frameCounterWrite bitOf
  cases v.getLsbD 7 with
  | true => exact halfFrame_quarterFrame_lengthsClocked _
  | false => exact ⟨rfl, rfl, rfl, rfl⟩

/-- A load takes the entry at bits 7:3 while the channel is enabled, else 0 (R199). -/
theorem some_lengthLoad (enabled : Bool) (v : Byte) :
    some (lengthLoad enabled v) = if enabled then lengthTable[v.toNat / 8]? else some 0 := by
  have hlt : v.toNat / 8 < lengthTable.length := by
    have := v.isLt
    change _ < 32
    omega
  cases enabled with
  | true =>
    show some (lengthTable.getD (v.toNat / 8) 0) = lengthTable[v.toNat / 8]?
    rw [List.getElem?_eq_getElem hlt, List.getD_eq_getElem _ _ hlt]
  | false => rfl

/-- A DMC that a 0x4015 write does not enable has no bytes left (R201). -/
theorem dmcEnable_false (d : Dmc) : (dmcEnable false d).bytesLeft = 0 := rfl

theorem frameSequencer_apu (s : State) : (frameSequencer s).apu = (frameSeqStep s.apu).1 := by
  rw [frameSequencer, State.requestIrqIf_eq]
  rfl

/-- Settles O48: the loads and the gates are read off the register writes; the clocks are those of the sequencer's
cases. -/
theorem lengthCounterLoads : Obligations.LengthCounterLoads := by
  refine ⟨fun v w s => ⟨lengthTable, rfl,
      ⟨_, busWrite_channel (r := 3) rfl (by decide) v s, rfl, some_lengthLoad s.apu.enP1 v⟩,
      ⟨_, busWrite_channel (r := 7) rfl (by decide) v s, rfl, some_lengthLoad s.apu.enP2 v⟩,
      ⟨_, busWrite_channel (r := 0x0B) rfl (by decide) v s, rfl, some_lengthLoad s.apu.enTri v⟩,
      ⟨_, busWrite_channel (r := 0x0F) rfl (by decide) v s, rfl, some_lengthLoad s.apu.enNoise v⟩,
      ⟨_, busWrite_enable w s, rfl, rfl, rfl, rfl, rfl, rfl, rfl, rfl, rfl, fun hoff => ?_, rfl⟩⟩,
    fun s => ?_, fun v s => ?_, fun a => ⟨fun h => ?_, fun h => ?_, fun h => ?_, fun h => ?_⟩⟩
  · show (dmcEnable (bitOf w 4) s.apu.dmc).bytesLeft = 0
    rw [bitOf, hoff, dmcEnable_false]
  · rw [frameSequencer_apu]
    exact frameSeqStep_lengthsClocked s.apu
  · exact ⟨_, busWrite_frameCounter v s, frameCounterWrite_lengthsClocked v s.apu⟩
  · exact pulseLevel_silent (.inl h)
  · exact pulseLevel_silent (.inl h)
  · exact if_neg fun hrun => hrun.1 h
  · exact if_pos (.inl h)

/-! ### The frame IRQ -/

theorem frameSequencer_irqPending (s : State) : (frameSequencer s).cpu.irqPending =
    (s.cpu.irqPending || (!s.apu.frameIrq && (frameSequencer s).apu.frameIrq)) := by
  rw [frameSequencer_apu, ← (frameSeqStep_irq s.apu).2, frameSequencer, State.requestIrqIf_eq]
  exact Bool.or_comm _ _

/-- A 0x4017 write sets the sequencer's own state; the clocks of bit 7 do not reach it (R204). -/
theorem frameCounterWrite_sequencer (v : Byte) (a : Apu) :
    (frameCounterWrite v a).fsMode = v.getLsbD 7 ∧ (frameCounterWrite v a).irqInhibit = v.getLsbD 6 ∧
    (frameCounterWrite v a).fsCounter = 0 ∧ (frameCounterWrite v a).frameIrq = (a.frameIrq && !v.getLsbD 6) := by
  have hirq : (if bitOf v 6 then false else a.frameIrq) = (a.frameIrq && !v.getLsbD 6) := by
    rw [bitOf]
    cases v.getLsbD 6 with
    | true => exact (Bool.and_false _).symm
    | false => exact (Bool.and_true _).symm
  unfold frameCounterWrite
  dsimp only
  split <;> exact ⟨rfl, rfl, rfl, hirq⟩

/-- Settles O51: the sequencer's cases, and the four fields a 0x4017 write sets. -/
theorem frameIrqRequests : Obligations.FrameIrqRequests := by
  refine ⟨fun s => ⟨?_, frameSequencer_irqPending s⟩, fun v s =>
    ⟨_, busWrite_frameCounter v s, rfl, frameCounterWrite_sequencer v s.apu⟩⟩
  rw [frameSequencer_apu]
  exact (frameSeqStep_irq s.apu).1

/-! ### The DMC's memory reader -/

/-- The address after the one just read: 0xFFFF is followed by 0x8000 (R217). -/
def dmcNextAddr (d : Dmc) : Addr := if d.curAddr = 0xFFFF then 0x8000 else d.curAddr + 1

theorem toNat_dmcNextAddr (d : Dmc) : (dmcNextAddr d).toNat =
    if d.curAddr.toNat = 0xFFFF then 0x8000 else d.curAddr.toNat + 1 := by
  unfold dmcNextAddr
  by_cases h : d.curAddr = 0xFFFF
  · rw [h]
    rfl
  · have hne : d.curAddr.toNat ≠ 0xFFFF := fun e => h (BitVec.eq_of_toNat_eq e)
    rw [if_neg h, if_neg hne]
    bv_omega

theorem toNat_dmcStart (d : Dmc) : (dmcStart d).toNat = 0xC000 + 64 * d.sampleAddrReg.toNat := by
  have h := d.sampleAddrReg.isLt
  have hbase : (0xC000 : Addr).toNat = 0xC000 := rfl
  rw [dmcStart, BitVec.toNat_add, BitVec.toNat_shiftLeft, toNat_zext16, Nat.shiftLeft_eq, hbase]
  omega

theorem toNat_dmcLength (d : Dmc) : (dmcLength d).toNat = 16 * d.sampleLenReg.toNat + 1 := by
  have h := d.sampleLenReg.isLt
  have hone : (1 : BitVec 12).toNat = 1 := rfl
  rw [dmcLength, BitVec.toNat_add, BitVec.toNat_shiftLeft, BitVec.toNat_setWidth, Nat.shiftLeft_eq, hone]
  omega

/-- The channel with the byte in its buffer and `left` bytes to read from `next` on, its flag raised if `irq` holds. -/
def dmcFilled (b : Byte) (next : Addr) (left : BitVec 12) (irq : Bool) (d : Dmc) : Dmc :=
  { d with buffer := b, bufferEmpty := false, curAddr := next, bytesLeft := left, dmcIrq := irq }

section
variable (b : Byte) (d : Dmc)

theorem dmcTake_more (h : d.bytesLeft ≠ 1) :
    dmcTake b d = (dmcFilled b (dmcNextAddr d) (d.bytesLeft - 1) d.dmcIrq d, false) := by
  have hleft : ¬d.bytesLeft - 1 = 0 := by bv_omega
  unfold dmcTake
  dsimp only
  rw [if_neg hleft]
  rfl

variable (hone : d.bytesLeft = 1)
include hone

theorem dmcTake_loop (hloop : d.loop = true) :
    dmcTake b d = (dmcFilled b (dmcStart d) (dmcLength d) d.dmcIrq d, false) := by
  have hleft : d.bytesLeft - 1 = 0 := by rw [hone]; rfl
  unfold dmcTake
  dsimp only
  rw [if_pos hleft, if_pos hloop]
  rfl

/-- The end of a sample requests an IRQ only if it raises the flag (R217, R218). -/
theorem dmcTake_last (hloop : d.loop = false) :
    dmcTake b d = (dmcFilled b (dmcNextAddr d) 0 (d.dmcIrq || d.irqEn) d, d.irqEn && !d.dmcIrq) := by
  have hleft : d.bytesLeft - 1 = 0 := by rw [hone]; rfl
  have hflag : (d.dmcIrq || d.irqEn) = (d.irqEn && !d.dmcIrq || d.dmcIrq) := by
    cases d.irqEn <;> cases d.dmcIrq <;> rfl
  unfold dmcTake
  dsimp only
  rw [if_pos hleft, hleft, if_neg (Bool.eq_false_iff.1 hloop), hflag]
  cases d.irqEn && !d.dmcIrq <;> rfl

end

/-- A fetch reads PRG ROM without a fault (R217). -/
theorem dmcReader_fetch {s : State} (hempty : s.apu.dmc.bufferEmpty = true) (hleft : s.apu.dmc.bytesLeft ≠ 0)
    (haddr : 0x8000 ≤ s.apu.dmc.curAddr.toNat) {d : Dmc} {irq : Bool}
    (htake : dmcTake (s.cart.readPrg s.apu.dmc.curAddr) s.apu.dmc = (d, irq)) :
    dmcReader s = .ok ()
      { s with cpu := { s.cpu with stall := s.cpu.stall + 4, irqPending := irq || s.cpu.irqPending }
               apu := { s.apu with dmc := d } } := by
  rw [dmcReader, hempty, bne_iff_ne.2 hleft, Bool.and_self, if_pos rfl, busRead_prg haddr, Access.andThen_ok, htake]
  dsimp only
  rw [State.requestIrqIf_eq]
  rfl

theorem dmcReader_idle {s : State} (h : s.apu.dmc.bufferEmpty = false ∨ s.apu.dmc.bytesLeft = 0) :
    dmcReader s = .ok () s := by
  obtain h | h := h <;> simp [dmcReader, h]

/-- Settles O52: a fetch ends in one of the three cases of `dmcTake`. -/
theorem dmcReaderFetches : Obligations.DmcReaderFetches := by
  refine ⟨fun s hempty hleft haddr => ?_, fun s => dmcReader_idle⟩
  by_cases hone : s.apu.dmc.bytesLeft = 1
  · cases hloop : s.apu.dmc.loop with
    | true =>
      refine ⟨_, _, dmcReader_fetch hempty hleft haddr (dmcTake_loop _ _ hone hloop), rfl, rfl, fun h => absurd hone h,
        fun _ h => Bool.noConfusion h, fun _ _ => ⟨toNat_dmcStart _, toNat_dmcLength _, rfl, rfl⟩⟩
    | false =>
      refine ⟨_, _, dmcReader_fetch hempty hleft haddr (dmcTake_last _ _ hone hloop), rfl, rfl, fun h => absurd hone h,
        fun _ _ => ⟨rfl, toNat_dmcNextAddr _, rfl, Bool.or_comm _ _⟩, fun _ h => Bool.noConfusion h⟩
  · exact ⟨_, _, dmcReader_fetch hempty hleft haddr (dmcTake_more _ _ hone), rfl, rfl,
      fun _ => ⟨rfl, toNat_dmcNextAddr _, rfl, rfl⟩, fun h => absurd h hone, fun h => absurd h hone⟩

end Sys2Proof.Machine
end

section
/-! PROOFS. Family 63_io_dma_host.md: OAM DMA (R221), and the controller ports and the light gun (R223–R226). -/

namespace Sys2Proof.Machine

/-! ### OAM DMA -/

theorem busWrite_oamDma (v : Byte) (s : State) : busWrite 0x4014 v s = oamDma v s := rfl

/-- The pages of RAM and of cartridge storage (R37). -/
theorem peek_page {v : Byte} (hv : v.toNat < 0x20 ∨ 0x60 ≤ v.toNat) (i : Byte) (s : State) :
    ∃ b, peek (pair v i) s = some b := by
  have haddr := toNat_pair v i
  have hi := i.isLt
  by_cases hram : (pair v i).toNat < 0x2000
  · exact ⟨_, peek_of_cell (storedCell_ram hram _)⟩
  by_cases hprg : 0x8000 ≤ (pair v i).toNat
  · exact ⟨_, peek_of_cell (storedCell_prgRom hprg _)⟩
  · exact ⟨_, peek_of_cell (storedCell_prgRam (by omega) (by omega) _)⟩

/-- The last `n` bytes of the copy go to their own OAM bytes and change nothing else, where the page is storage. -/
theorem oamDmaCopy_storage {v : Byte} (hv : v.toNat < 0x20 ∨ 0x60 ≤ v.toNat) : ∀ {n : Nat} {s : State}, n ≤ 256 →
    Memory.wf Config.oamSize s.ppu.oam = true → ∃ oam, oamDmaCopy v n s = .ok () (s.setPpu { s.ppu with oam := oam }) ∧
      ∀ i : Byte, some (Memory.read oam (s.ppu.oamAddr + i).toNat) =
        if 256 - n ≤ i.toNat then peek (pair v i) s else some (Memory.read s.ppu.oam (s.ppu.oamAddr + i).toNat)
  | 0, s, _, _ => ⟨s.ppu.oam, rfl, fun i => by rw [if_neg (by omega)]⟩
  | n + 1, s, hn, hoam => by
    have hfirst : (BitVec.ofNat 8 (255 - n)).toNat = 255 - n := by
      rw [BitVec.toNat_ofNat]
      omega
    generalize hj : BitVec.ofNat 8 (255 - n) = j at hfirst
    obtain ⟨b, hb⟩ := peek_page hv j s
    obtain ⟨oam, hcopy, hread⟩ := oamDmaCopy_storage hv
      (s := s.setPpu { s.ppu with oam := Memory.write s.ppu.oam (s.ppu.oamAddr + j).toNat b }) (Nat.le_of_succ_le hn)
      (Memory.write_wf (BitVec.isLt _) hoam)
    refine ⟨oam, ?_, fun i => ?_⟩
    · unfold oamDmaCopy
      dsimp only
      rw [hj, busRead_storage hb]
      exact hcopy
    · refine (hread i).trans ?_
      by_cases hij : i = j
      · subst hij
        rw [if_neg (by omega), if_pos (by omega), hb]
        exact congrArg some (Memory.read_write_same' hoam)
      · have hne : i.toNat ≠ 255 - n := fun e => hij (BitVec.eq_of_toNat_eq (e.trans hfirst.symm))
        have hindex : (s.ppu.oamAddr + i).toNat ≠ (s.ppu.oamAddr + j).toNat := fun e =>
          hij (add_left_cancel (BitVec.eq_of_toNat_eq e))
        have hiff : 256 - n ≤ i.toNat ↔ 256 - (n + 1) ≤ i.toNat := by omega
        simp only [hiff]
        split
        · rfl
        · exact congrArg some (Memory.read_write_other' hindex hoam)

/-- A copy from page 0x40 stops at 0x4018, after the 24 bytes before it (R41, log 15). -/
theorem oamDmaCopy_disabled_page : ∀ {k : Nat} {s : State}, k ≤ 24 →
    ∃ t, oamDmaCopy 0x40 (232 + k) s = .stop (.invalidAddress 0x4018) t
  | 0, s, _ => by
    have hread : busRead (pair 0x40 (BitVec.ofNat 8 (255 - 231))) s = .stop (.invalidAddress 0x4018) s :=
      busRead_disabled (by decide) s
    refine ⟨s, ?_⟩
    rw [oamDmaCopy, hread]
    rfl
  | k + 1, s, hk => by
    have haddr : (pair 0x40 (BitVec.ofNat 8 (255 - (232 + k)))).toNat = 0x4000 + (23 - k) := by
      have hpage : (0x40 : Byte).toNat = 0x40 := rfl
      rw [toNat_pair, hpage, BitVec.toNat_ofNat]
      omega
    have henabled : disabled (pair 0x40 (BitVec.ofNat 8 (255 - (232 + k)))) = false :=
      Bool.eq_false_iff.2 fun hd => by have := (disabled_iff _).1 hd; omega
    obtain ⟨b, u, hread⟩ := busRead_enabled henabled s
    obtain ⟨t, ht⟩ := oamDmaCopy_disabled_page (s := u.setPpu { u.ppu with
      oam := Memory.write u.ppu.oam (u.ppu.oamAddr + BitVec.ofNat 8 (255 - (232 + k))).toNat b }) (Nat.le_of_succ_le hk)
    refine ⟨t, ?_⟩
    rw [← Nat.add_assoc, oamDmaCopy, hread]
    exact ht

/-- Settles O53: the 256 copies are all the OAM bytes, and the first address of page 0x40 that cannot be read is
0x4018. -/
theorem oamDmaCopiesAPage : Obligations.OamDmaCopiesAPage := by
  refine ⟨fun v s hs hv => ?_, fun s => ?_⟩
  · obtain ⟨_, _, _, _, hoam, _⟩ := hs
    obtain ⟨oam, hcopy, hread⟩ := oamDmaCopy_storage hv (Nat.le_refl 256) hoam
    refine ⟨oam, ?_, fun i => (hread i).trans (if_pos (by omega))⟩
    rw [busWrite_oamDma, oamDma, hcopy, Access.andThen_ok, State.addStall_def, oamDmaStall, Nat.add_assoc]
    rfl
  · obtain ⟨t, ht⟩ := oamDmaCopy_disabled_page (k := 24) (s := s) (Nat.le_refl _)
    refine ⟨t, ?_⟩
    rw [busWrite_oamDma, oamDma, ht]
    rfl

/-! ### The controller ports -/

/-- The buttons in the order in which a port shifts them out (R223). -/
def buttonList (b : Buttons) : List Bool := [b.a, b.b, b.select, b.start, b.up, b.down, b.left, b.right]

theorem packButtons_bit (b : Buttons) {k : Nat} (hk : k < 8) :
    (packButtons b).getLsbD k = (buttonList b).getD k true := by
  simp only [packButtons, BitVec.getLsbD_or, bitByte_bit _ hk, bitByte_shiftLeft_bit _ _ hk]
  interval_cases k <;> simp [buttonList]

/-- A read shifts the register by one and a 1 enters at bit 7 (R224). -/
theorem shiftPort_bit (r : Byte) {k : Nat} (hk : k < 8) :
    (shiftPort r).getLsbD k = (decide (k = 7) || r.getLsbD (k + 1)) := by
  have htop : (0x80 : Byte).getLsbD k = decide (k = 7) := by decide +revert
  rw [shiftPort, BitVec.getLsbD_or, htop, BitVec.getLsbD_ushiftRight, Bool.or_comm, Nat.add_comm]

/-- The bit a serial register gives at its `k`-th read (R224). -/
def serialBit (r : Byte) (k : Nat) : Bool := decide (8 ≤ k) || r.getLsbD k

theorem serialBit_shiftPort (r : Byte) (k : Nat) : serialBit (shiftPort r) k = serialBit r (k + 1) := by
  unfold serialBit
  by_cases hk : k < 8
  · rw [shiftPort_bit r hk]
    have h8 : decide (8 ≤ k) = false := decide_eq_false (by omega)
    have h7 : decide (8 ≤ k + 1) = decide (k = 7) := decide_eq_decide.2 (by omega)
    rw [h8, h7, Bool.false_or]
  · have h8 : 8 ≤ k := by omega
    simp [h8, Nat.le_succ_of_le h8]

/-- Reads of a port in a row, where `P s r` says that the port in `s` is the serial register `r`. -/
theorem portBits_serial {a : Addr} {P : State → Byte → Prop}
    (hread : ∀ s r, P s r → bitOf (ioRead a s).1 0 = r.getLsbD 0 ∧ P (ioRead a s).2 (shiftPort r)) :
    ∀ {n : Nat} {s : State} {r : Byte}, P s r → portBits a n s = (List.range n).map (serialBit r)
  | 0, _, _, _ => rfl
  | n + 1, s, r, h => by
    obtain ⟨hbit, hnext⟩ := hread s r h
    rw [portBits, hbit, portBits_serial hread hnext, List.range_succ_eq_map, List.map_cons, List.map_map]
    exact congrArg (_ :: ·) (List.map_congr_left fun k _ => serialBit_shiftPort r k)

/-- Reads of a port in a row, where each gives the same bit. -/
theorem portBits_constant {a : Addr} {P : State → Prop} {b : Bool}
    (hread : ∀ s, P s → bitOf (ioRead a s).1 0 = b ∧ P (ioRead a s).2) :
    ∀ {n : Nat} {s : State}, P s → portBits a n s = List.replicate n b
  | 0, _, _ => rfl
  | n + 1, s, h => by
    obtain ⟨hbit, hnext⟩ := hread s h
    rw [portBits, hbit, portBits_constant hread hnext, List.replicate_succ]

theorem serialBit_packButtons (b : Buttons) (k : Nat) : serialBit (packButtons b) k = (buttonList b).getD k true := by
  unfold serialBit
  by_cases hk : k < 8
  · have h8 : decide (8 ≤ k) = false := decide_eq_false (by omega)
    rw [h8, Bool.false_or, packButtons_bit b hk]
  · have h8 : 8 ≤ k := by omega
    rw [decide_eq_true h8, Bool.true_or, List.getD_eq_default _ _ h8]

/-- A latched register gives the eight buttons, then ones. -/
theorem map_serialBit_packButtons (b : Buttons) (n : Nat) :
    (List.range (8 + n)).map (serialBit (packButtons b)) = buttonList b ++ List.replicate n true := by
  have hones : ∀ k, serialBit (packButtons b) (8 + k) = true := fun k => by
    rw [serialBit_packButtons, List.getD_eq_default _ _ (Nat.le_add_right 8 k)]
  rw [List.range_add, List.map_append, List.map_map]
  refine congrArg₂ (· ++ ·) ?_ ?_
  · rw [funext (serialBit_packButtons b)]
    rfl
  · refine (List.map_congr_left fun k _ => hones k).trans ?_
    rw [List.map_const', List.length_range]

/-! ### One read of a port -/

theorem portOpenBits_bit (s : State) {k : Nat} (hk : k < 8) :
    (portOpenBits s).getLsbD k = (decide (5 ≤ k) && (Config.openBus s.draws).getLsbD k) := by
  have hmask : (0xE0 : Byte).getLsbD k = decide (5 ≤ k) := by decide +revert
  rw [portOpenBits, openBusByte, BitVec.getLsbD_and, hmask, Bool.and_comm]

/-- Bit 0 is the port's, bits 4:1 are 0, bits 7:5 the draw's (R224). -/
theorem portByte_bit (x : Bool) (s : State) {k : Nat} (hk : k < 8) : (bitByte x ||| portOpenBits s).getLsbD k =
    if k = 0 then x else if k ≤ 4 then false else (Config.openBus s.draws).getLsbD k := by
  rw [BitVec.getLsbD_or, bitByte_bit _ hk, portOpenBits_bit _ hk]
  split_ifs with h0 h4
  · simp [h0]
  · simp [h0, show ¬5 ≤ k by omega]
  · simp [h0, show 5 ≤ k by omega]

theorem readPort1_eq (s : State) : readPort1 s =
    (bitByte (if s.ports.strobe then s.host.buttons1.a else s.ports.shift1.getLsbD 0) ||| portOpenBits s,
      { s with ports := { s.ports with shift1 := if s.ports.strobe then s.ports.shift1 else shiftPort s.ports.shift1 }
               draws := s.draws + 1 }) := by
  unfold readPort1
  split_ifs <;> rfl

theorem readPort2Standard_eq (s : State) : readPort2Standard s =
    (bitByte (if s.ports.strobe then s.host.buttons2.a else s.ports.shift2.getLsbD 0) ||| portOpenBits s,
      { s with ports := { s.ports with shift2 := if s.ports.strobe then s.ports.shift2 else shiftPort s.ports.shift2 }
               draws := s.draws + 1 }) := by
  unfold readPort2Standard
  split_ifs <;> rfl

theorem ioRead_port1 (s : State) : ioRead 0x4016 s = readPort1 s := rfl

theorem ioRead_port2_standard {s : State} (h : s.host.port2Device = .standard) :
    ioRead 0x4017 s = readPort2Standard s := by
  show readPort2 s = _
  rw [readPort2, h]

theorem ioRead_port2_lightGun {s : State} (h : s.host.port2Device = .lightGun) : ioRead 0x4017 s = readLightGun s := by
  show readPort2 s = _
  rw [readPort2, h]

theorem busRead_port1 (s : State) : busRead 0x4016 s = .ok (ioRead 0x4016 s).1 (ioRead 0x4016 s).2 := rfl

theorem busRead_port2 (s : State) : busRead 0x4017 s = .ok (ioRead 0x4017 s).1 (ioRead 0x4017 s).2 := rfl

/-- Each bit of a light-gun read (R226). -/
theorem readLightGun_bit (s : State) {k : Nat} (hk : k < 8) : (readLightGun s).1.getLsbD k =
    if k = 3 then !s.host.gunLight else if k = 4 then s.host.gunTrigger
    else decide (5 ≤ k) && (Config.openBus s.draws).getLsbD k := by
  simp only [readLightGun, BitVec.getLsbD_or, bitByte_shiftLeft_bit _ _ hk, portOpenBits_bit _ hk]
  split_ifs with h3 h4
  · simp [h3]
  · simp [h4]
  · simp [h3, h4]

/-! ### Reads in a row -/

/-- While either the old or the new strobe is 1 a write of 0x4016 latches both controllers (R223). -/
theorem busWrite_strobe_latch {v : Byte} {s t : State} (h : (s.ports.strobe || v.getLsbD 0) = true)
    (hw : busWrite 0x4016 v s = .ok () t) : t.host = s.host ∧ t.ports =
      { strobe := v.getLsbD 0, shift1 := packButtons s.host.buttons1, shift2 := packButtons s.host.buttons2 } := by
  change Access.ok () (writeStrobe v s) = _ at hw
  have hlatch : writeStrobe v s = s.setPorts
      { strobe := v.getLsbD 0, shift1 := packButtons s.host.buttons1, shift2 := packButtons s.host.buttons2 } :=
    if_pos h
  obtain ⟨-, rfl⟩ := (Access.ok.injEq _ _ _ _).mp hw
  rw [hlatch]
  exact ⟨rfl, rfl⟩

section
variable {s : State} {n : Nat}

theorem portBits_port1_serial (h : s.ports.strobe = false) :
    portBits 0x4016 n s = (List.range n).map (serialBit s.ports.shift1) := by
  refine portBits_serial (P := fun t r => t.ports.strobe = false ∧ t.ports.shift1 = r) (fun t r ⟨ht, hr⟩ => ?_) ⟨h, rfl⟩
  rw [ioRead_port1, readPort1_eq, ht, hr]
  exact ⟨portByte_bit _ _ (by decide), rfl, rfl⟩

theorem portBits_port2_serial (hdev : s.host.port2Device = .standard) (h : s.ports.strobe = false) :
    portBits 0x4017 n s = (List.range n).map (serialBit s.ports.shift2) := by
  refine portBits_serial (P := fun t r => t.host.port2Device = .standard ∧ t.ports.strobe = false ∧ t.ports.shift2 = r)
    (fun t r ⟨hd, ht, hr⟩ => ?_) ⟨hdev, h, rfl⟩
  rw [ioRead_port2_standard hd, readPort2Standard_eq, ht, hr]
  exact ⟨portByte_bit _ _ (by decide), hd, rfl, rfl⟩

theorem portBits_port1_latched {b : Buttons} (h : s.ports.strobe = false) (hlatch : s.ports.shift1 = packButtons b) :
    portBits 0x4016 (8 + n) s = buttonList b ++ List.replicate n true := by
  rw [portBits_port1_serial h, hlatch, map_serialBit_packButtons]

theorem portBits_port2_latched {b : Buttons} (hdev : s.host.port2Device = .standard) (h : s.ports.strobe = false)
    (hlatch : s.ports.shift2 = packButtons b) : portBits 0x4017 (8 + n) s = buttonList b ++ List.replicate n true := by
  rw [portBits_port2_serial hdev h, hlatch, map_serialBit_packButtons]

theorem portBits_port1_strobe (h : s.ports.strobe = true) :
    portBits 0x4016 n s = List.replicate n s.host.buttons1.a := by
  refine portBits_constant (P := fun t => t.ports.strobe = true ∧ t.host = s.host) (fun t ⟨ht, hh⟩ => ?_) ⟨h, rfl⟩
  rw [ioRead_port1, readPort1_eq, ht, hh]
  exact ⟨portByte_bit _ _ (by decide), rfl, rfl⟩

theorem portBits_port2_strobe (hdev : s.host.port2Device = .standard) (h : s.ports.strobe = true) :
    portBits 0x4017 n s = List.replicate n s.host.buttons2.a := by
  refine portBits_constant (P := fun t => t.ports.strobe = true ∧ t.host = s.host) (fun t ⟨ht, hh⟩ => ?_) ⟨h, rfl⟩
  rw [ioRead_port2_standard (hh ▸ hdev), readPort2Standard_eq, ht, hh]
  exact ⟨portByte_bit _ _ (by decide), rfl, rfl⟩

end

/-- Settles O54: a strobe of 1 then 0 latches the buttons, and each read shifts them on by one. -/
theorem controllerShiftsOutButtons : Obligations.ControllerShiftsOutButtons := by
  refine ⟨fun n v w s s1 s2 hv hw h1 h2 => ?_, fun n v s s1 hv h1 => ?_, fun s => ?_, fun s hdev => ?_,
    fun s hdev => ?_⟩
  · obtain ⟨hhost1, hports1⟩ := busWrite_strobe_latch (by rw [hv, Bool.or_true]) h1
    obtain ⟨hhost2, hports2⟩ := busWrite_strobe_latch (by rw [hports1, hv, Bool.true_or]) h2
    rw [hw, hhost1] at hports2
    exact ⟨portBits_port1_latched (by rw [hports2]) (by rw [hports2]), fun hdev =>
      portBits_port2_latched (by rw [hhost2, hhost1, hdev]) (by rw [hports2]) (by rw [hports2])⟩
  · obtain ⟨hhost1, hports1⟩ := busWrite_strobe_latch (by rw [hv, Bool.or_true]) h1
    have hstrobe : s1.ports.strobe = true := by rw [hports1, hv]
    rw [← hhost1]
    exact ⟨portBits_port1_strobe hstrobe, fun hdev => portBits_port2_strobe hdev hstrobe⟩
  · refine ⟨_, _, busRead_port1 s, ?_⟩
    rw [ioRead_port1, readPort1_eq]
    refine ⟨rfl, fun k hlo hhi => ?_, fun k hlo hhi => ?_⟩
    · rw [portByte_bit _ _ (by omega), if_neg (by omega), if_pos hhi]
    · rw [portByte_bit _ _ (by omega), if_neg (by omega), if_neg (by omega)]
  · refine ⟨_, _, busRead_port2 s, ?_⟩
    rw [ioRead_port2_standard hdev, readPort2Standard_eq]
    refine ⟨rfl, fun k hlo hhi => ?_, fun k hlo hhi => ?_⟩
    · rw [portByte_bit _ _ (by omega), if_neg (by omega), if_pos hhi]
    · rw [portByte_bit _ _ (by omega), if_neg (by omega), if_neg (by omega)]
  · refine ⟨(readLightGun s).1, ?_, fun k hk => ?_, readLightGun_bit s (by decide), readLightGun_bit s (by decide),
      fun k hlo hhi => ?_⟩
    · rw [busRead_port2, ioRead_port2_lightGun hdev]
      rfl
    · rw [readLightGun_bit s (by omega), if_neg (by omega), if_neg (by omega), decide_eq_false (by omega),
        Bool.false_and]
    · rw [readLightGun_bit s (by omega), if_neg (by omega), if_neg (by omega), decide_eq_true hlo, Bool.true_and]

end Sys2Proof.Machine
end

section
/-! PROOFS. Family 70_reset_and_hazards.md: what every tick keeps (R229), the stall countdown (R230), power-on (R232)
and Reset() (R233), and that construction, host actions and steps keep the invariant. -/

namespace Sys2Proof.Machine

/-! ### The rest of a tick keeps the invariant -/

theorem ppuSteps_keeps : ∀ (n : Nat) {s : State}, StateWf s → StateWf (ppuSteps n s)
  | 0, _, h => h
  | n + 1, _, h => ppuSteps_keeps n (ppuStep_keeps h)

/-- PPU steps count neither ticks nor APU steps. -/
theorem ppuSteps_counts : ∀ (n : Nat) (s : State),
    (ppuSteps n s).cpu.cycle = s.cpu.cycle ∧ (ppuSteps n s).apu.apuCycle = s.apu.apuCycle
  | 0, _ => ⟨rfl, rfl⟩
  | n + 1, s => by
    obtain ⟨hcycle, hapu, -⟩ := ppuStep_rest s
    obtain ⟨hc, ha⟩ := ppuSteps_counts n (ppuStep s)
    exact ⟨hc.trans hcycle, ha.trans (congrArg Apu.apuCycle hapu)⟩

/-- The rest of a tick whose APU step raises no fault: three PPU steps, the APU step, the cycle count (R229). -/
theorem finishTick_of_ok {s t : State} (h : apuStep (ppuSteps 3 s) = .ok () t) :
    finishTick s = t.setCycle (t.cpu.cycle + 1) := by
  simp only [ppuSteps] at h
  unfold finishTick
  rw [h]

/-- Three dots and one APU step per counted cycle (R3, R229). -/
theorem finishTick_inv {s : State} (h : Inv s) : Inv (finishTick s) := by
  obtain ⟨hwf, hpos, hcount⟩ := h
  have ⟨_, _, hppuwf, _⟩ := hwf
  obtain ⟨-, hdot3⟩ := ppuSteps_pos (n := 3) hppuwf
  obtain ⟨t, ht, hwft, hppu, hcycle, -, -, -, hsteps⟩ := apuStep_ok (ppuSteps_keeps 3 hwf)
  obtain ⟨hcycle3, hcount3⟩ := ppuSteps_counts 3 s
  have hdots : framePos t.ppu = (3 * s.cpu.cycle % dotsPerFrame + 3) % dotsPerFrame := by
    rw [hppu, hdot3]
    exact congrArg (fun k => (k + 3) % dotsPerFrame) hpos
  rw [finishTick_of_ok ht, hcycle, hcycle3]
  refine ⟨hwft, ?_, ?_⟩
  · show framePos t.ppu = 3 * (s.cpu.cycle + 1) % dotsPerFrame
    rw [hdots, Nat.mod_add_mod, Nat.mul_add_one]
  · show t.apu.apuCycle = s.cpu.cycle + 1
    rw [hsteps, hcount3, hcount]

/-- What an instruction cannot move holds the lock step. -/
theorem Fixed.lockStep {s t : State} (h : Fixed s t) (hs : LockStep s) : LockStep t := by
  obtain ⟨-, -, -, hline, hdot, hcycle, hcount⟩ := h
  unfold LockStep
  rw [hline, hdot, hcycle, hcount]
  exact hs

theorem cpuTick_inv {s t : State} (h : Inv s) (ht : cpuTick s = .next t) : Inv t :=
  ⟨cpuTick_keeps h.1 ht, (cpuTick_fixed (Fixed.refl s) ht).lockStep h.2⟩

/-- Settles O58: the CPU tick keeps the form and moves no position; what follows it, if anything does, moves the PPU,
the APU and the cycle count together. -/
theorem stepKeepsInv : Obligations.StepKeepsInv := by
  intro s t hs hstep
  obtain ⟨u, hu, rfl⟩ := step_eq_next hstep
  have hinv : Inv u := cpuTick_inv hs hu
  by_cases hfault : u.cpu.fault = none
  · rw [afterCpuTick_of_running hfault]
    exact finishTick_inv hinv
  · rw [afterCpuTick_of_fault hfault]
    exact hinv

/-! ### The stall countdown -/

/-- The registers an instruction computes with, RAM and PRG RAM are the same. -/
def ProgramKept (s t : State) : Prop :=
  t.cpu.a = s.cpu.a ∧ t.cpu.x = s.cpu.x ∧ t.cpu.y = s.cpu.y ∧ t.cpu.s = s.cpu.s ∧ t.cpu.p = s.cpu.p ∧
  t.cpu.pc = s.cpu.pc ∧ t.ram = s.ram ∧ t.prgRam = s.prgRam

section
variable {s0 s : State} (h : ProgramKept s0 s)
include h

theorem busRead_programKept (a : Addr) : (busRead a s).Leaves (ProgramKept s0) := by
  cases hr : busRead a s with
  | ok v t =>
    obtain ⟨_, _, _, _, _, _, _, _, rfl⟩ := busRead_effect hr
    exact h
  | stop r t =>
    obtain ⟨-, -, rfl⟩ := busRead_stop hr
    exact h

theorem ProgramKept.ppuStep : ProgramKept s0 (ppuStep s) := by
  obtain ⟨_, _, _, _, _, hd⟩ := dotEvents_effect s
  rw [Machine.ppuStep, hd]
  exact h

theorem ProgramKept.requestIrqIf (b : Bool) : ProgramKept s0 (s.requestIrqIf b) := by
  rw [State.requestIrqIf_eq]
  exact h

theorem dmcReader_programKept : (dmcReader s).Leaves (ProgramKept s0) := by
  unfold dmcReader
  split
  · exact (busRead_programKept h _).andThen fun _ s' hs' =>
      ProgramKept.requestIrqIf (s := (s'.addStall Config.dmcStall).setApu _) hs' _
  · exact h

theorem apuStep_programKept : (apuStep s).Leaves (ProgramKept s0) := by
  have hseq : ProgramKept s0 (frameSequencer s) :=
    ProgramKept.requestIrqIf (s := s.setApu (frameSeqStep s.apu).1) h _
  unfold apuStep
  exact Access.Leaves.andThen (dmcReader_programKept hseq) fun _ _ hs' => hs'

/-- The PPU and the APU compute with no register and reach neither RAM nor PRG RAM, in any state. -/
theorem ProgramKept.finishTick : ProgramKept s0 (finishTick s) := by
  have hppu := h.ppuStep.ppuStep.ppuStep
  unfold Machine.finishTick
  generalize Machine.ppuStep (Machine.ppuStep (Machine.ppuStep s)) = u at hppu ⊢
  have hleaves := apuStep_programKept hppu
  cases he : apuStep u with
  | ok v t => rw [he] at hleaves; exact hleaves
  | stop r t => rw [he] at hleaves; exact hleaves

end

/-- Settles O9: the countdown is a CPU tick that raises no fault, so the rest of the tick follows it. -/
theorem stallTickOnlyCountsDown : Obligations.StallTickOnlyCountsDown := by
  refine ⟨fun n s t hfault hstall hstep => ?_, fun s hstall => if_pos hstall⟩
  have htick : cpuTick s = .next (s.setStall n) := by
    rw [cpuTick, if_neg (by omega), hstall, Nat.add_sub_cancel]
  obtain ⟨u, hu, rfl⟩ := step_eq_next hstep
  obtain rfl : s.setStall n = u := Host.Outcome.next.inj (htick.symm.trans hu)
  have hkept : ProgramKept s (s.setStall n) := ⟨rfl, rfl, rfl, rfl, rfl, rfl, rfl, rfl⟩
  rw [afterCpuTick_of_running (s := s.setStall n) hfault]
  exact ⟨rfl, hkept.finishTick⟩

/-! ### Reset() -/

/-- The reset vector is read low byte first (R44, R233). -/
theorem readVector_reset (s : State) :
    readVector resetVector s = pair (s.cart.readPrg 0xFFFD) (s.cart.readPrg 0xFFFC) := by
  have hhigh : resetVector + 1 = 0xFFFD := by decide
  rw [readVector, hhigh]
  rfl

theorem putFlag_i_true (p : Byte) : putFlag .i true p = p ||| 0x04 := rfl

/-- All that Reset() changes: it touches the CPU, the PPU's registers and the APU only (R233). -/
theorem resetSequence_eq (s : State) : resetSequence s =
    { s with
      cpu := { s.cpu with p := s.cpu.p ||| 0x04, s := s.cpu.s - 3, stall := 7, nmiPending := false, irqPending := false
                          pc := pair (s.cart.readPrg 0xFFFD) (s.cart.readPrg 0xFFFC) }
      ppu := resetPpu s.ppu, apu := resetApu s.apu } := by
  simp only [resetSequence, readVector_reset, putFlag_i_true, State.putF, State.setP, State.setS, State.setPc,
    State.setNmi, State.setIrq, State.setStall, State.setPpu, State.setApu]

/-- The 0x4015 write of 0 disables every channel, stops the DMC and clears its flag (R201, R233). -/
theorem resetApu_eq (a : Apu) : resetApu a =
    { a with enP1 := false, enP2 := false, enTri := false, enNoise := false, frameIrq := false, fsCounter := 0
             p1 := { a.p1 with len := 0 }, p2 := { a.p2 with len := 0 }, tri := { a.tri with len := 0 }
             noise := { a.noise with len := 0 }, dmc := { a.dmc with bytesLeft := 0, dmcIrq := false } } := rfl

/-- Settles O55: `resetSequence_eq` field by field; the vector's two bytes are bus reads of PRG ROM. -/
theorem resetSequenceEffect : Obligations.ResetSequenceEffect := by
  refine ⟨fun s => ⟨?_, ?_, ?_, ?_, ?_, busRead_prg (by decide) s, busRead_prg (by decide) s⟩, fun image q c hc => ?_⟩
  · rw [resetSequence_eq]
  · rw [resetSequence_eq]
    rfl
  · rw [resetSequence_eq, resetApu_eq]
  · rw [resetSequence_eq]
  · rw [hostAct]
  · rw [construct, hc]

/-! ### Construction and the host keep the invariant -/

theorem resetApu_wf {a : Apu} (h : ApuWf a) : ApuWf (resetApu a) := by
  obtain ⟨-, hrest⟩ := enableWrite_wf h 0
  refine ⟨?_, hrest⟩
  show 0 < sequenceLength a.fsMode
  cases a.fsMode <;> decide

/-- Reset() moves no position and no count, and reaches no memory (R233). -/
theorem resetSequence_inv {s : State} (h : Inv s) : Inv (resetSequence s) := by
  obtain ⟨⟨hmem, hp, hppu, hapu⟩, hlock⟩ := h
  rw [resetSequence_eq]
  exact ⟨⟨hmem, hp.putFlag (f := .i) (by decide) true, hppu, resetApu_wf hapu⟩, hlock⟩

theorem resetSequence_sameMemories (s : State) : SameMemories s (resetSequence s) := by
  rw [resetSequence_eq]
  exact ⟨rfl, rfl, rfl, rfl, rfl, rfl, rfl⟩

theorem apuWf_powerOn : ApuWf Apu.powerOn := by
  unfold ApuWf
  decide

/-- Power-on gives the invariant whatever the memories' parameters are (R232). -/
theorem powerOn_inv {q : Params} (hcart : q.cart.wf = true) : Inv (State.powerOn q) := by
  have hmem : MemoriesWf (State.powerOn q) :=
    ⟨Memory.ofBytes_wf _ _, Memory.ofBytes_wf _ _, Memory.ofBytes_wf _ _, Memory.ofBytes_wf _ _, Memory.ofBytes_wf _ _,
      Memory.ofBytes_wf _ _, hcart⟩
  have hp : StatusWf Cpu.powerOn.p := ⟨by decide, by decide⟩
  have hppu : PpuWf (State.powerOn q).ppu := ⟨Nat.zero_lt_succ _, Nat.zero_lt_succ _⟩
  have hlock : 0 * Config.dotsPerLine + 0 = 3 * 0 % dotsPerFrame := by decide
  exact ⟨⟨hmem, hp, hppu, apuWf_powerOn⟩, hlock, rfl⟩

/-- The loader makes no cartridge without PRG ROM, and puts each image inside its size (R47, R48). -/
theorem loadCart_wf {image : List Byte} {c : Cart} (h : loadCart image = .ok c) : c.wf = true := by
  obtain ⟨hm, hunits, -, -, hprg, hchr⟩ := loadCart_eq_ok h
  obtain ⟨-, -, -, -, hpos⟩ := (malformed_eq_none_iff image).1 hm
  rw [Cart.wf, hprg, hchr, Memory.ofBytes_wf, Memory.ofBytes_wf, hunits]
  simpa using Nat.pos_of_ne_zero hpos

theorem construct_inv {image : List Byte} {q : Params} {s : State} (h : construct image q = .ok s) : Inv s := by
  obtain ⟨c, hc, rfl⟩ := construct_eq_ok h
  exact resetSequence_inv (powerOn_inv (loadCart_wf hc))

theorem hostAct_inv (h : HostAction) {s : State} (hs : Inv s) : Inv (hostAct h s) := by
  cases h with
  | reset => exact resetSequence_inv hs
  | _ => exact hs

theorem hostAct_sameMemories (h : HostAction) (s : State) : SameMemories s (hostAct h s) := by
  cases h with
  | reset => exact resetSequence_sameMemories s
  | _ => exact ⟨rfl, rfl, rfl, rfl, rfl, rfl, rfl⟩

/-- Settles O59: construction is power-on and Reset(), and the reset button is the only action that reaches past the
host's inputs. -/
theorem hostKeepsInv : Obligations.HostKeepsInv :=
  ⟨fun _ _ _ => construct_inv, fun h _ => hostAct_inv h, hostAct_sameMemories⟩

/-- Settles O57: the reset state is power-on and Reset() with a cartridge in form. -/
theorem resetHasInv : Obligations.ResetHasInv := by
  have hreset : State.reset = resetSequence (State.powerOn Params.blank) := by
    rw [resetSequence_eq]
    rfl
  refine ⟨hreset, ?_⟩
  rw [hreset]
  exact resetSequence_inv (powerOn_inv (by decide))

end Sys2Proof.Machine
end
